-- ==== Sys2Proof/Word.lean ====
section
/-! DEFINITION. The word types of the engine: everything the spec numbers bit by bit (00_scope.md R9). All values are unsigned. -/

namespace Sys2Proof

/-- A 32-bit register, address or counter (00_scope.md R7, ADDR_WIDTH; 10_state.md R31). -/
abbrev Word := BitVec 32

/-- One byte, the only unit size (00_scope.md R7, UNIT_SIZE; 20_memory.md R64). -/
abbrev Byte := BitVec 8

/-- The CH field of a command word (30_encoding.md R80). -/
abbrev Chn := BitVec 4

end Sys2Proof
end

