-- ==== Sys2Proof/Config.lean ====
section
/-! DEFINITION. What an implementation fixes (the OPEN parameters of 00_scope.md R7), the inputs of the engine (host accesses
and events, 00_scope.md R6), and the free values: opaque constants with no body, so that no proof can see one. -/

namespace Sys2Proof

/-- The width of a host access; only `word` is admitted (42_status.md R145). -/
inductive Width where
  | byte
  | half
  | word
  | double
  deriving DecidableEq, Repr, Inhabited

/-- The direction of a host access, with the data word of a write (30_encoding.md R92). -/
inductive HostOp where
  | read
  | write (v : Word)
  deriving DecidableEq, Repr, Inhabited

/-- A host access at `ENGINE_BASE + off` (10_state.md R31, 42_status.md R143 to R146). -/
structure HostAccess where
  op    : HostOp
  width : Width
  off   : BitVec 12
  deriving DecidableEq, Repr, Inhabited

/-- One step of one agent, before its enabling condition is checked (00_scope.md R5, R6). -/
inductive Event where
  /-- A host access of the engine's register block (42_status.md R143 to R147). -/
  | host (a : HostAccess)
  /-- The host stores byte `v` at address `a` (20_memory.md R62, R67, R72, R76). -/
  | hostStore (a : Word) (v : Byte)
  /-- The host loads the byte at address `a` (20_memory.md R67, R72, R76). -/
  | hostLoad (a : Word)
  /-- `Trigger(t)`, a step of the environment (43_engine.md R160, R161). -/
  | trigger (t : BitVec 8)
  /-- `Grant(c)`, a step of the burst sequencer (43_engine.md R165, R166). -/
  | grant (c : Nat)
  /-- `ReArm(c)`, a step of the re-arm controller (43_engine.md R175). -/
  | rearm (c : Nat)
  /-- Reset of the engine (70_reset_and_hazards.md R240). -/
  | reset
  deriving DecidableEq, Repr, Inhabited

/-- The addresses `lo` to `hi`, both included. -/
structure AddrRange where
  lo : Word
  hi : Word
  deriving DecidableEq, Repr, Inhabited

/-- SERIAL_CFG, the serial master's configuration (60_exceptions.md R226, R231; decision D46). No rule of the engine reads
it. DESIGN CHOICE, safe, log entry 17. -/
structure SerialCfg where
  clockRateHz     : Nat
  clockIdleHigh   : Bool
  sampleFirstEdge : Bool
  msbFirst        : Bool
  autoChipSelect  : Bool
  deriving DecidableEq, Repr, Inhabited

/-- The OPEN parameters of 00_scope.md R7 other than NUM_CHANNELS (the length of the machine's channel list, log entry 2),
as plain data: a statement about every state is a statement about every choice of them. MEM_MAP's two predicates are lists
of address ranges (DESIGN CHOICE, safe, log entry 22). -/
structure Params where
  maxUnits          : Nat
  triggerSet        : List (BitVec 8)
  engineBase        : Word
  rxDataAddr        : Word
  txDataAddr        : Word
  readMap           : List AddrRange
  writeMap          : List AddrRange
  bufLen            : Nat
  /-- HOST_FAULT_RESPONSE (decision D22, U20): what the platform answers, as a number that no rule interprets. DESIGN CHOICE
  (its type), safe, log entry 9. -/
  hostFaultResponse : Nat
  serialCfg         : SerialCfg
  deriving DecidableEq, Repr, Inhabited

/-- Free value: what `ARG_SRC` holds after the `k`-th reset (10_state.md R36, U2). DESIGN CHOICE (the key), safe, log entry 3. -/
opaque Config.argSrcDraw (k : Nat) : Word

/-- Free value: what `ARG_DST` holds after the `k`-th reset (10_state.md R36, U2). DESIGN CHOICE (the key), safe, log entry 3. -/
opaque Config.argDstDraw (k : Nat) : Word

/-- Free value: byte `p_j` of the stream the remote device sends after the `k`-th reset (60_exceptions.md R228, U4).
DESIGN CHOICE (the key), safe, log entry 5. -/
opaque Config.rxByte (k j : Nat) : Byte

/-- Free value: the byte address `a` holds before anything is written there (10_state.md R37, U1). DESIGN CHOICE (the
key), safe, log entry 4. -/
opaque Config.initialByte (a : Word) : Byte

/-- Free value: the `k`-th event taken once the agenda is empty; any agent may move next (00_scope.md R5, U5 to U8).
DESIGN CHOICE, safe, log entry 6. -/
opaque Config.nextEvent (k : Nat) : Event

/-- Free value: the serial clock rate, which the source does not give (60_exceptions.md R231). Safe, log entry 17. -/
opaque Config.serialClockHz : Nat

/-- Free value: HOST_FAULT_RESPONSE of the example parameters. The spec leaves the parameter open (D22, U20) and its examples
give it no value. DESIGN CHOICE (that it is free), safe, log entry 9. -/
opaque Config.hostFaultResponse : Nat

/-- The parameter values of the spec's examples (95_test_vectors.md section 0; 20_memory.md R70; the serial line of
60_exceptions.md R231): DESIGN CHOICE, unsafe for a statement about `State.reset` alone, log entry 1. Two values are not the
spec's examples' but free, since the spec gives none: HOST_FAULT_RESPONSE (log entry 9) and the serial clock rate (log
entry 17). -/
def exampleParams : Params where
  maxUnits := 1024
  triggerSet := [0x00, 0x01, 0x02]
  engineBase := 0x40000000
  rxDataAddr := 0x50000000
  txDataAddr := 0x50000004
  readMap := [⟨0x20000000, 0x2000FFFF⟩, ⟨0x50000000, 0x50000000⟩]
  writeMap := [⟨0x20000000, 0x2000FFFF⟩, ⟨0x50000004, 0x50000004⟩]
  bufLen := 10
  hostFaultResponse := Config.hostFaultResponse
  serialCfg := ⟨Config.serialClockHz, false, true, true, true⟩

/-- NUM_CHANNELS of the spec's examples (00_scope.md R7). DESIGN CHOICE, log entry 1. -/
def exampleChannels : Nat := 2

end Sys2Proof
end

