-- ==== Sys2Proof/Syntax.lean ====
section
/-! DEFINITION. The instruction set: one constructor per row of spec/opcode_table.json. A command carries every bit of its
word below OP (30_encoding.md R80, R85 to R91), reserved bits too, because the field checks belong to execution
(30_encoding.md R93). -/

namespace Sys2Proof

/-- The nine commands, the seven illegal operation codes (30_encoding.md R82, R83), the host's access forms
(30_encoding.md R92) and the two pseudo-instructions (30_encoding.md R95). -/
inductive Instr where
  | nop (ch : Chn) (pay : BitVec 24)
  | cfgch (ch : Chn) (prio ie cb res3 : Bool) (trig : BitVec 8) (resHi : BitVec 12)
  | cfgdesc (ch : Chn) (slot sinc dinc res3 : Bool) (size res76 : BitVec 2) (arb : BitVec 4) (prot : BitVec 3)
      (resHi : BitVec 9)
  | actb (ch : Chn) (slot burst : Bool) (res72 : BitVec 6) (nm1 : BitVec 16)
  | stop (ch : Chn) (pay : BitVec 24)
  | unbind (ch : Chn) (pay : BitVec 24)
  | clrovr (ch : Chn) (pay : BitVec 24)
  | ackerr (ch : Chn) (pay : BitVec 24)
  | ackdone (ch : Chn) (pay : BitVec 24)
  | illegal9 (ch : Chn) (pay : BitVec 24)
  | illegalA (ch : Chn) (pay : BitVec 24)
  | illegalB (ch : Chn) (pay : BitVec 24)
  | illegalC (ch : Chn) (pay : BitVec 24)
  | illegalD (ch : Chn) (pay : BitVec 24)
  | illegalE (ch : Chn) (pay : BitVec 24)
  | illegalF (ch : Chn) (pay : BitVec 24)
  | wrCmd (v : Word)
  | wrArgSrc (v : Word)
  | wrArgDst (v : Word)
  | wrReadOnly (off : BitVec 12) (v : Word)
  | rd (off : BitVec 12)
  | hostAccessFault (a : HostAccess)
  | arm (ch : Chn) (src dst : Word) (nm1 : BitVec 16)
  | initeng
  deriving DecidableEq, Repr

end Sys2Proof
end

