-- ==== Sys2Proof/Decode.lean ====
section
/-! DEFINITION. Decoding: a command word to its command (30_encoding.md R93), an offset to its register (10_state.md R31),
a host access to its form (30_encoding.md R92); then the encoder, written from the same tables. -/

namespace Sys2Proof

/-- The command a 32-bit word spells. Total: every word is one of the nine commands or illegal (30_encoding.md R82, R83,
R93); payload fields as 30_encoding.md R85, R87, R89 to R91 lay them out. -/
def decodeCommand (w : Word) : Instr :=
  let ch : Chn := w.extractLsb' 24 4
  let pay : BitVec 24 := w.extractLsb' 0 24
  match (w.extractLsb' 28 4).toNat with
  | 0x0 => .nop ch pay
  | 0x1 => .cfgch ch (w.getLsbD 0) (w.getLsbD 1) (w.getLsbD 2) (w.getLsbD 3) (w.extractLsb' 4 8) (w.extractLsb' 12 12)
  | 0x2 => .cfgdesc ch (w.getLsbD 0) (w.getLsbD 1) (w.getLsbD 2) (w.getLsbD 3) (w.extractLsb' 4 2) (w.extractLsb' 6 2)
      (w.extractLsb' 8 4) (w.extractLsb' 12 3) (w.extractLsb' 15 9)
  | 0x3 => .actb ch (w.getLsbD 0) (w.getLsbD 1) (w.extractLsb' 2 6) (w.extractLsb' 8 16)
  | 0x4 => .stop ch pay
  | 0x5 => .unbind ch pay
  | 0x6 => .clrovr ch pay
  | 0x7 => .ackerr ch pay
  | 0x8 => .ackdone ch pay
  | 0x9 => .illegal9 ch pay
  | 0xA => .illegalA ch pay
  | 0xB => .illegalB ch pay
  | 0xC => .illegalC ch pay
  | 0xD => .illegalD ch pay
  | 0xE => .illegalE ch pay
  | _ => .illegalF ch pay

/-- Why a byte string is no command word. -/
inductive DecodeReject where
  /-- Fewer than the four bytes of a command word (30_encoding.md R80). -/
  | truncated
  deriving DecidableEq, Repr

/-- A command word viewed as bytes, bits [7:0] at the lowest address (20_memory.md R65), with the bytes after it. -/
def decodeBytes : List Byte → Except DecodeReject (Instr × List Byte)
  | b0 :: b1 :: b2 :: b3 :: rest => .ok (decodeCommand (b3 ++ b2 ++ b1 ++ b0), rest)
  | _ => .error .truncated

/-- The per-channel registers of 10_state.md R31. -/
inductive ChanReg where
  | status
  | desc
  | adesc
  | src
  | dst
  | cnt
  | remain
  | ovr
  | done
  deriving DecidableEq, Repr

/-- The registers of 10_state.md R31. -/
inductive Reg where
  | cmd
  | argSrc
  | argDst
  | err
  | donePend
  | info
  | chan (c : Nat) (r : ChanReg)
  deriving DecidableEq, Repr

/-- The register at offset `o` of a channel block, if one is mapped there (10_state.md R31). -/
def chanRegAt (o : Nat) : Option ChanReg :=
  match o with
  | 0x00 => some .status
  | 0x04 => some .desc
  | 0x08 => some .adesc
  | 0x0C => some .src
  | 0x10 => some .dst
  | 0x14 => some .cnt
  | 0x18 => some .remain
  | 0x1C => some .ovr
  | 0x20 => some .done
  | _ => none

/-- The register at offset `off` of an engine of `n` channels; `none` where 10_state.md R31 maps nothing, a misaligned
offset among them (42_status.md R145, R146). -/
def regAt (n : Nat) (off : BitVec 12) : Option Reg :=
  match off.toNat with
  | 0x000 => some .cmd
  | 0x004 => some .argSrc
  | 0x008 => some .argDst
  | 0x00C => some .err
  | 0x010 => some .donePend
  | 0x014 => some .info
  | o =>
    if 0x100 ≤ o ∧ (o - 0x100) / 0x40 < n then
      (chanRegAt ((o - 0x100) % 0x40)).map (Reg.chan ((o - 0x100) / 0x40))
    else none

/-- The form a host access of an engine of `n` channels has (30_encoding.md R92; 42_status.md R143 to R147). Total. -/
def decodeAccess (n : Nat) (a : HostAccess) : Instr :=
  if a.width ≠ .word then .hostAccessFault a
  else
    match regAt n a.off, a.op with
    | none, _ => .hostAccessFault a
    | some _, .read => .rd a.off
    | some .cmd, .write v => .wrCmd v
    | some .argSrc, .write v => .wrArgSrc v
    | some .argDst, .write v => .wrArgDst v
    | some _, .write v => .wrReadOnly a.off v

/-- The word of a command (30_encoding.md R80, R85 to R91, R94); `none` for a form that is no command word. -/
def encodeCommand : Instr → Option Word
  | .nop ch pay => some (0x0#4 ++ ch ++ pay)
  | .cfgch ch prio ie cb res3 trig resHi =>
    some (0x1#4 ++ ch ++ resHi ++ trig ++ BitVec.ofBool res3 ++ BitVec.ofBool cb ++ BitVec.ofBool ie ++ BitVec.ofBool prio)
  | .cfgdesc ch slot sinc dinc res3 size res76 arb prot resHi =>
    some (0x2#4 ++ ch ++ resHi ++ prot ++ arb ++ res76 ++ size ++ BitVec.ofBool res3 ++ BitVec.ofBool dinc
      ++ BitVec.ofBool sinc ++ BitVec.ofBool slot)
  | .actb ch slot burst res72 nm1 => some (0x3#4 ++ ch ++ nm1 ++ res72 ++ BitVec.ofBool burst ++ BitVec.ofBool slot)
  | .stop ch pay => some (0x4#4 ++ ch ++ pay)
  | .unbind ch pay => some (0x5#4 ++ ch ++ pay)
  | .clrovr ch pay => some (0x6#4 ++ ch ++ pay)
  | .ackerr ch pay => some (0x7#4 ++ ch ++ pay)
  | .ackdone ch pay => some (0x8#4 ++ ch ++ pay)
  | .illegal9 ch pay => some (0x9#4 ++ ch ++ pay)
  | .illegalA ch pay => some (0xA#4 ++ ch ++ pay)
  | .illegalB ch pay => some (0xB#4 ++ ch ++ pay)
  | .illegalC ch pay => some (0xC#4 ++ ch ++ pay)
  | .illegalD ch pay => some (0xD#4 ++ ch ++ pay)
  | .illegalE ch pay => some (0xE#4 ++ ch ++ pay)
  | .illegalF ch pay => some (0xF#4 ++ ch ++ pay)
  | .wrCmd _ => none
  | .wrArgSrc _ => none
  | .wrArgDst _ => none
  | .wrReadOnly _ _ => none
  | .rd _ => none
  | .hostAccessFault _ => none
  | .arm _ _ _ _ => none
  | .initeng => none

/-- A 32-bit host write (30_encoding.md R92, `WR off, v`). -/
def wrAccess (off : BitVec 12) (v : Word) : HostAccess := ⟨.write v, .word, off⟩

/-- A 32-bit host read (30_encoding.md R92, `RD off`). -/
def rdAccess (off : BitVec 12) : HostAccess := ⟨.read, .word, off⟩

/-- The host access that performs a command: the write of its word to CMD (42_status.md R143). -/
def commandAccess (command : Instr) : List HostAccess := (encodeCommand command).toList.map (wrAccess 0x000)

/-- The host accesses that perform an instruction: one for each command and each access form, and the expansion of
30_encoding.md R95 for a pseudo-instruction. -/
def encode : Instr → List HostAccess
  | .nop ch pay => commandAccess (.nop ch pay)
  | .cfgch ch prio ie cb res3 trig resHi => commandAccess (.cfgch ch prio ie cb res3 trig resHi)
  | .cfgdesc ch slot sinc dinc res3 size res76 arb prot resHi =>
    commandAccess (.cfgdesc ch slot sinc dinc res3 size res76 arb prot resHi)
  | .actb ch slot burst res72 nm1 => commandAccess (.actb ch slot burst res72 nm1)
  | .stop ch pay => commandAccess (.stop ch pay)
  | .unbind ch pay => commandAccess (.unbind ch pay)
  | .clrovr ch pay => commandAccess (.clrovr ch pay)
  | .ackerr ch pay => commandAccess (.ackerr ch pay)
  | .ackdone ch pay => commandAccess (.ackdone ch pay)
  | .illegal9 ch pay => commandAccess (.illegal9 ch pay)
  | .illegalA ch pay => commandAccess (.illegalA ch pay)
  | .illegalB ch pay => commandAccess (.illegalB ch pay)
  | .illegalC ch pay => commandAccess (.illegalC ch pay)
  | .illegalD ch pay => commandAccess (.illegalD ch pay)
  | .illegalE ch pay => commandAccess (.illegalE ch pay)
  | .illegalF ch pay => commandAccess (.illegalF ch pay)
  | .wrCmd v => [wrAccess 0x000 v]
  | .wrArgSrc v => [wrAccess 0x004 v]
  | .wrArgDst v => [wrAccess 0x008 v]
  | .wrReadOnly off v => [wrAccess off v]
  | .rd off => [rdAccess off]
  | .hostAccessFault a => [a]
  | .arm ch src dst nm1 => [wrAccess 0x004 src, wrAccess 0x008 dst, wrAccess 0x000 (0x3#4 ++ ch ++ nm1 ++ 0x00#8)]
  | .initeng => [wrAccess 0x000 0x70000000]

/-- The host access that 16 bits describe to the host's table tool: offset in [11:0] as spec/opcode_table.json numbers it,
then bit 12 read, [14:13] width (0 word, 1 byte, 2 half, 3 double), the data word above. The spec gives an access no
encoding in bits: DESIGN CHOICE, safe, log entry 14. -/
def accessOfBits (b : BitVec 16) (data : Word) : Option HostAccess :=
  if b.getLsbD 15 then none
  else
    let width : Width :=
      match (b.extractLsb' 13 2).toNat with
      | 0 => .word
      | 1 => .byte
      | 2 => .half
      | _ => .double
    some ⟨if b.getLsbD 12 then .read else .write data, width, b.extractLsb' 0 12⟩

/-- What the decoder reads from the bits `w` of a table row of `nbits` bits: a 32-bit row is a command word, given to
`decodeBytes` lowest byte first; a row of at most 16 bits is a host access by its offset, with a data word of zeros
(log entry 14). -/
def decodeTableWord (nbits w : Nat) : Option Instr :=
  if nbits = 32 then
    let v : Word := BitVec.ofNat 32 w
    match decodeBytes [v.extractLsb' 0 8, v.extractLsb' 8 8, v.extractLsb' 16 8, v.extractLsb' 24 8] with
    | .ok (i, _) => some i
    | .error _ => none
  else if nbits ≤ 16 then
    (accessOfBits (BitVec.ofNat 16 w) 0).map (decodeAccess exampleChannels)
  else none

end Sys2Proof
end

