-- ==== Sys2Proof/WellFormed.lean ====
section
/-! DEFINITION. Which terms of `Instr` name an instruction of an engine of `n` channels: the offset of an access form must
be one the form exists for (42_status.md R144, R146, R147; 60_exceptions.md R214). The fields of a command are exactly the
bits of its word, so every command term is well formed (30_encoding.md R93). -/

namespace Sys2Proof

/-- The offsets that hold a register the host cannot write (42_status.md R144). -/
def readOnlyOffset (n : Nat) (off : BitVec 12) : Bool :=
  match regAt n off with
  | some .err => true
  | some .donePend => true
  | some .info => true
  | some (.chan _ _) => true
  | some .cmd => false
  | some .argSrc => false
  | some .argDst => false
  | none => false

/-- A well-formed instruction of an engine of `n` channels. -/
def Instr.wellFormed (n : Nat) : Instr → Bool
  | .nop _ _ => true
  | .cfgch _ _ _ _ _ _ _ => true
  | .cfgdesc _ _ _ _ _ _ _ _ _ _ => true
  | .actb _ _ _ _ _ => true
  | .stop _ _ => true
  | .unbind _ _ => true
  | .clrovr _ _ => true
  | .ackerr _ _ => true
  | .ackdone _ _ => true
  | .illegal9 _ _ => true
  | .illegalA _ _ => true
  | .illegalB _ _ => true
  | .illegalC _ _ => true
  | .illegalD _ _ => true
  | .illegalE _ _ => true
  | .illegalF _ _ => true
  | .wrCmd _ => true
  | .wrArgSrc _ => true
  | .wrArgDst _ => true
  | .wrReadOnly off _ => readOnlyOffset n off
  | .rd off => (regAt n off).isSome
  | .hostAccessFault a => a.width != .word || (regAt n a.off).isNone
  | .arm _ _ _ _ => true
  | .initeng => true

end Sys2Proof
end

