-- ==== Sys2Proof/Machine/State.lean ====
section
/-! DEFINITION. The state of the engine, as plain data, and its value at reset (10_state.md). -/

namespace Sys2Proof.Machine

/-- The phases of a channel (00_scope.md R11; 10_state.md R24). -/
inductive Phase where
  | unarmed
  | armed
  | inProgress
  | completed
  | stopped
  | faulted
  deriving DecidableEq, Repr

/-- A descriptor slot (10_state.md R22). -/
structure Desc where
  valid : Bool
  sinc  : Bool
  dinc  : Bool
  size  : BitVec 2
  arb   : BitVec 4
  prot  : BitVec 3
  deriving DecidableEq, Repr

/-- A channel: configuration (10_state.md R21), the two descriptor slots (R22), burst fields (R23), progress (R24),
counters (R25). -/
structure Channel where
  cfg      : Bool
  prio     : Bool
  ie       : Bool
  cb       : Bool
  trig     : BitVec 8
  desc0    : Desc
  desc1    : Desc
  src      : Word
  dst      : Word
  nm1      : BitVec 16
  burst    : Bool
  slot     : Bool
  phase    : Phase
  remain   : BitVec 17
  req      : Bool
  donePend : Bool
  ovr      : Word
  done     : Word
  deriving DecidableEq, Repr

/-- What the host's last answering access gave it: the model's own field (DESIGN CHOICE, safe, log entry 11). -/
inductive HostResp where
  /-- No access has answered yet. -/
  | none
  /-- The word a register read returned (42_status.md R147). -/
  | word (v : Word)
  /-- The byte a memory load returned (20_memory.md R72). -/
  | byte (v : Byte)
  /-- `HostAccessFault(off)` with the platform's response (60_exceptions.md R214, decision D22). -/
  | accessFault (off : BitVec 12) (response : Nat)
  deriving DecidableEq, Repr

/-- The bytes written so far: address and byte, addresses strictly rising. An address that is not listed holds no written
byte and reads as the free value `Config.initialByte` of it (10_state.md R37, U1; log entry 4). -/
abbrev Memory := List Host.Cell

/-- The whole machine. -/
structure State where
  /-- The OPEN parameters (00_scope.md R7); no step changes them. -/
  params        : Params
  /-- The channels, numbered from 0; NUM_CHANNELS is the length (10_state.md R20; log entry 2). -/
  chans         : List Channel
  /-- `g.ARG_SRC` (10_state.md R28). -/
  argSrc        : Word
  /-- `g.ARG_DST` (10_state.md R28). -/
  argDst        : Word
  /-- `g.ERR` (10_state.md R28; 60_exceptions.md R202). -/
  err           : Word
  /-- Whether the host has written `ARG_SRC` since reset (60_exceptions.md R213, U3; log entry 24). -/
  argSrcWritten : Bool
  /-- Whether the host has written `ARG_DST` since reset (60_exceptions.md R213, U3; log entry 24). -/
  argDstWritten : Bool
  /-- The memory outside the engine (10_state.md R30; 20_memory.md R60). -/
  mem           : Memory
  /-- The first bytes of the stream `p_j`, where already fixed (60_exceptions.md R228; log entry 5). -/
  rxStream      : List Byte
  /-- The number of reads of PERIPH_RXDATA_ADDR since reset (60_exceptions.md R228; 20_memory.md R67; log entry 13). -/
  rxReads       : Nat
  /-- The byte-out events, oldest first (60_exceptions.md R229; 20_memory.md R67). -/
  out           : List Byte
  /-- The run is marked faulted (60_exceptions.md R213; log entry 10). -/
  runFaulted    : Bool
  /-- What the host's last answering access gave it (log entry 11). -/
  hostResp      : HostResp
  /-- The events of the interleaving already fixed, oldest first (00_scope.md R5; log entry 6). -/
  agenda        : List Event
  /-- How many events have been drawn freely (log entry 6). -/
  drawn         : Nat
  /-- How many resets have happened: the key of the draws made at a reset (log entries 3, 5). -/
  resets        : Nat
  deriving DecidableEq, Repr

/-- Why the machine stops with a fault: it has no reason to. Every fault of the spec leaves the machine running
(60_exceptions.md R203, R207, R210, R211, R214), so each is a next state, and no constructor is needed. -/
inductive Fault where
  deriving DecidableEq, Repr

/-- Why an instruction has no meaning in the model. -/
inductive Refusal where
  /-- Raised by an arm of `exec` whose instruction has no meaning yet. Safe. -/
  | notModelled (mnemonic : String)
  deriving DecidableEq, Repr

/-- A descriptor slot at reset (10_state.md R35). -/
def Desc.reset : Desc where
  valid := false
  sinc := false
  dinc := false
  size := 0
  arb := 0
  prot := 0

/-- A channel at reset (10_state.md R35). -/
def Channel.reset : Channel where
  cfg := false
  prio := false
  ie := false
  cb := false
  trig := 0
  desc0 := Desc.reset
  desc1 := Desc.reset
  src := 0
  dst := 0
  nm1 := 0
  burst := false
  slot := false
  phase := .unarmed
  remain := 0
  req := false
  donePend := false
  ovr := 0
  done := 0

/-- The machine right after the first reset, for any parameters and any number of channels (10_state.md R35 to R37). -/
def State.initial (p : Params) (n : Nat) : State where
  params := p
  chans := List.replicate n Channel.reset
  argSrc := Config.argSrcDraw 0
  argDst := Config.argDstDraw 0
  err := 0
  argSrcWritten := false
  argDstWritten := false
  mem := []
  rxStream := []
  rxReads := 0
  out := []
  runFaulted := false
  hostResp := .none
  agenda := []
  drawn := 0
  resets := 0

/-- The machine right after reset, with the parameters of the spec's examples (log entry 1). -/
def State.reset : State := State.initial exampleParams exampleChannels

end Sys2Proof.Machine
end

