-- ==== Sys2Proof/Machine/Operands.lean ====
section
/-! DEFINITION. What the commands and the engine steps read: a channel by its number, the unit index and unit addresses of a
burst (20_memory.md R68), MEM_MAP (R61), the enabling conditions of the engine's own steps (43_engine.md R165, R175). -/

namespace Sys2Proof.Machine

/-- A channel is active when its phase is ARMED or INPROGRESS (00_scope.md R11). -/
def Phase.active : Phase → Bool
  | .unarmed => false
  | .armed => true
  | .inProgress => true
  | .completed => false
  | .stopped => false
  | .faulted => false

/-- NUM_CHANNELS (10_state.md R20). -/
def State.numChannels (s : State) : Nat := s.chans.length

/-- Channel `c`; a number past the last channel reads as a channel at reset, which no rule then
writes (log entry 23). -/
def State.chan (s : State) (c : Nat) : Channel := s.chans[c]?.getD Channel.reset

/-- `zext_17(NM1) + 1`, the units of the burst (41_activation.md R122, 43_engine.md R166). -/
def Channel.units (c : Channel) : BitVec 17 := c.nm1.setWidth 17 + 1

/-- The unit index `k` of the current burst (10_state.md R27; outside R26 it wraps, log entry 19). -/
def Channel.unitIndex (c : Channel) : BitVec 17 := c.units - c.remain

/-- `src_addr(c, k)` (20_memory.md R68). -/
def Channel.srcAddr (c : Channel) : Word := c.src + (if c.desc0.sinc then c.unitIndex.setWidth 32 else 0)

/-- `dst_addr(c, k)` (20_memory.md R68). -/
def Channel.dstAddr (c : Channel) : Word := c.dst + (if c.desc0.dinc then c.unitIndex.setWidth 32 else 0)

/-- Whether an address lies in a range, both ends included. -/
def inRange (a : Word) (r : AddrRange) : Bool := r.lo ≤ a && a ≤ r.hi

/-- `Readable(a)` (20_memory.md R61). -/
def readable (p : Params) (a : Word) : Bool := p.readMap.any (inRange a)

/-- `Writable(a)` (20_memory.md R61). -/
def writable (p : Params) (a : Word) : Bool := p.writeMap.any (inRange a)

/-- The offset of a bus address in the engine's 4 KiB register block, if it lies there (10_state.md R31; 42_status.md
R146). -/
def blockOffset (p : Params) (a : Word) : Option (BitVec 12) :=
  if (a - p.engineBase).toNat < 0x1000 then some ((a - p.engineBase).setWidth 12) else none

/-- The codes of which `Trigger(t)` is an event: those of TRIGGER_SET other than 0 (43_engine.md R160). -/
def triggerCode (p : Params) (t : BitVec 8) : Bool := t != 0 && p.triggerSet.contains t

/-- A channel bound to trigger code `t` (43_engine.md R161, R162). -/
def Channel.boundTo (c : Channel) (t : BitVec 8) : Bool := c.cfg && c.trig == t

/-- `Grant(c)` is enabled (43_engine.md R165). -/
def State.grantEnabled (s : State) (c : Nat) : Bool :=
  (s.chan c).req && ((s.chan c).prio || !s.chans.any fun d => d.req && d.prio)

/-- `ReArm(c)` is enabled (43_engine.md R175). -/
def State.rearmEnabled (s : State) (c : Nat) : Bool := (s.chan c).donePend && (s.chan c).cb

/-- Byte `p_j` of the received stream (60_exceptions.md R228): as already fixed, else a free value (log entry 5). -/
def State.rxByte (s : State) (j : Nat) : Byte := s.rxStream[j]?.getD (Config.rxByte s.resets j)

end Sys2Proof.Machine
end

