-- ==== Sys2Proof/Machine/Flags.lean ====
section
/-! DEFINITION. Every status word the engine shows: the error record (60_exceptions.md R201, R202), the registers of
10_state.md R31 to R33, the interrupt line (43_engine.md R180), and the counters' arithmetic (10_state.md R25). -/

namespace Sys2Proof.Machine

/-- The error codes (60_exceptions.md R201). -/
inductive ErrCode where
  | illegalOp
  | badChannel
  | reservedBits
  | unsupportedValue
  | notConfigured
  | busy
  | stopped
  | channelFaulted
  | countRange
  | callbackLifetime
  | busError
  deriving DecidableEq, Repr

/-- `ERR.CODE` (60_exceptions.md R201). -/
def ErrCode.bits : ErrCode → BitVec 4
  | .illegalOp => 0x1
  | .badChannel => 0x2
  | .reservedBits => 0x3
  | .unsupportedValue => 0x4
  | .notConfigured => 0x5
  | .busy => 0x6
  | .stopped => 0x7
  | .channelFaulted => 0x8
  | .countRange => 0x9
  | .callbackLifetime => 0xA
  | .busError => 0xB

/-- The word of a fresh error record (60_exceptions.md R202). -/
def errWord (code : ErrCode) (op : BitVec 4) (eng : Bool) (ch : Chn) : Word :=
  0x1#1 ++ 0x0#1 ++ 0x0#14 ++ ch ++ 0x0#3 ++ BitVec.ofBool eng ++ op ++ code.bits

/-- `Record(code, op, eng, chn)` on the value of `g.ERR`: the first error is kept, a later one sets LOST
(60_exceptions.md R202). -/
def recordErr (err : Word) (code : ErrCode) (op : BitVec 4) (eng : Bool) (ch : Chn) : Word :=
  if err.getLsbD 31 then err ||| 0x40000000 else errWord code op eng ch

/-- The `PHASE` field (10_state.md R24). -/
def Phase.bits : Phase → BitVec 3
  | .unarmed => 0
  | .armed => 1
  | .inProgress => 2
  | .completed => 3
  | .stopped => 4
  | .faulted => 5

/-- `CH_STATUS[c]` (10_state.md R32). -/
def Channel.statusWord (c : Channel) : Word :=
  0x0#12 ++ c.trig ++ 0x0#1 ++ BitVec.ofBool c.cb ++ BitVec.ofBool c.ie ++ BitVec.ofBool c.prio
    ++ BitVec.ofBool c.desc1.valid ++ BitVec.ofBool c.desc0.valid ++ BitVec.ofBool c.cfg ++ BitVec.ofBool c.donePend
    ++ BitVec.ofBool c.req ++ c.phase.bits

/-- `CH_DESC[c]` and `CH_ADESC[c]` (10_state.md R33). -/
def Desc.word (d : Desc) : Word :=
  0x0#17 ++ d.prot ++ d.arb ++ 0x0#2 ++ d.size ++ 0x0#1 ++ BitVec.ofBool d.dinc ++ BitVec.ofBool d.sinc ++ 0x0#1

/-- `CH_CNT[c]` (10_state.md R31). -/
def Channel.cntWord (c : Channel) : Word := 0x0#14 ++ BitVec.ofBool c.slot ++ BitVec.ofBool c.burst ++ c.nm1

/-- `DONEPEND`: bit `c` is `ch[c].DONE_PEND`, the other bits 0 (10_state.md R31). -/
def donePendWord : List Channel → Word
  | [] => 0
  | c :: cs => donePendWord cs <<< 1 ||| BitVec.setWidth 32 (BitVec.ofBool c.donePend)

/-- `INFO` (10_state.md R31). -/
def infoWord (maxUnits n : Nat) : Word := BitVec.ofNat 16 (maxUnits - 1) ++ 0x0#11 ++ BitVec.ofNat 5 n

/-- A per-channel register (10_state.md R31). -/
def Channel.regWord (c : Channel) : ChanReg → Word
  | .status => c.statusWord
  | .desc => c.desc0.word
  | .adesc => c.desc1.word
  | .src => c.src
  | .dst => c.dst
  | .cnt => c.cntWord
  | .remain => c.remain.setWidth 32
  | .ovr => c.ovr
  | .done => c.done

/-- The word a read of a register returns (10_state.md R31 to R33; 42_status.md R147, R148). -/
def State.regWord (s : State) : Reg → Word
  | .cmd => 0
  | .argSrc => s.argSrc
  | .argDst => s.argDst
  | .err => s.err
  | .donePend => donePendWord s.chans
  | .info => infoWord s.params.maxUnits s.numChannels
  | .chan c r => (s.chan c).regWord r

/-- The host interrupt line (43_engine.md R180). -/
def State.irq (s : State) : Bool := s.chans.any fun c => c.donePend && !c.cb

/-- `sat32(x + 1)` (00_scope.md R9; 43_engine.md R161). -/
def satSucc (x : Word) : Word := if x = BitVec.allOnes 32 then x else x + 1

end Sys2Proof.Machine
end

