-- ==== Sys2Proof/Machine/Ops.lean ====
section
/-! DEFINITION. The named operations: memory, updates of the state, what each `raise` of 60_exceptions.md does, and the
updates of one channel that the engine's steps are made of. -/

namespace Sys2Proof.Machine

/-- What a meaning answers. -/
abbrev Result := Host.Outcome State Fault Refusal

/-! ### Memory -/

/-- The byte written at address `k`, if any. -/
def Memory.get? : Memory → Nat → Option Byte
  | [], _ => none
  | (k', v) :: m, k => if k = k' then some v else Memory.get? m k

/-- Write byte `v` at address `k`, keeping the addresses strictly rising. -/
def Memory.put : Memory → Nat → Byte → Memory
  | [], k, v => [(k, v)]
  | (k', v') :: m, k, v =>
    if k < k' then (k, v) :: (k', v') :: m
    else if k = k' then (k, v) :: m
    else (k', v') :: Memory.put m k v

/-- The canonical form: addresses strictly rising, inside the 2^32 bytes of 20_memory.md R60. -/
abbrev Memory.wf (m : Memory) : Prop :=
  m.Pairwise (fun x y => x.1 < y.1) ∧ ∀ x ∈ m, x.1 < 2 ^ 32

/-- The byte at address `a` (20_memory.md R62, R72): the last byte written there, else the unspecified initial contents
(10_state.md R37, U1; log entry 4). -/
def Memory.load (m : Memory) (a : Word) : Byte := (Memory.get? m a.toNat).getD (Config.initialByte a)

/-- Store byte `v` at address `a` (20_memory.md R63, R72). -/
def Memory.store (m : Memory) (a : Word) (v : Byte) : Memory := Memory.put m a.toNat v

/-! ### Updates of the state -/

/-- Write channel `c`. -/
def State.setChan (s : State) (c : Nat) (x : Channel) : State := { s with chans := s.chans.set c x }

/-- Apply `f` to every channel in one step. -/
def State.mapChans (s : State) (f : Channel → Channel) : State := { s with chans := s.chans.map f }

/-- A host write of `ARG_SRC` (42_status.md R143). -/
def State.setArgSrc (s : State) (v : Word) : State := { s with argSrc := v, argSrcWritten := true }

/-- A host write of `ARG_DST` (42_status.md R143). -/
def State.setArgDst (s : State) (v : Word) : State := { s with argDst := v, argDstWritten := true }

/-- Write `g.ERR`. -/
def State.setErr (s : State) (v : Word) : State := { s with err := v }

/-- Write the memory outside the engine. -/
def State.setMem (s : State) (m : Memory) : State := { s with mem := m }

/-- A byte of the received stream has been consumed (60_exceptions.md R228). -/
def State.countRx (s : State) : State := { s with rxReads := s.rxReads + 1 }

/-- A byte-out event (60_exceptions.md R229). -/
def State.pushOut (s : State) (v : Byte) : State := { s with out := s.out ++ [v] }

/-- The host sees the answer of an access. -/
def State.setHostResp (s : State) (r : HostResp) : State := { s with hostResp := r }

/-- Mark the run as faulted if `b` (60_exceptions.md R213; log entry 10). -/
def State.markFaultedIf (s : State) (b : Bool) : State := { s with runFaulted := s.runFaulted || b }

/-- The events still to come. -/
def State.setAgenda (s : State) (es : List Event) : State := { s with agenda := es }

/-- An event has been drawn freely. -/
def State.countDraw (s : State) : State := { s with drawn := s.drawn + 1 }

/-- `Record(code, op, eng, chn)` (60_exceptions.md R202). -/
def State.record (s : State) (code : ErrCode) (op : BitVec 4) (eng : Bool) (ch : Chn) : State :=
  s.setErr (recordErr s.err code op eng ch)

/-! ### Byte accesses, by the engine and by the host (20_memory.md R67, R72; log entry 13) -/

/-- The value a read of the byte at `a` returns (20_memory.md R62, R72). -/
def State.readByte (s : State) (a : Word) : Byte :=
  if a = s.params.rxDataAddr then s.rxByte s.rxReads else s.mem.load a

/-- The side effect of a read of the byte at `a` (20_memory.md R62, R67). -/
def State.afterRead (s : State) (a : Word) : State := if a = s.params.rxDataAddr then s.countRx else s

/-- A write of byte `v` at `a`: it is stored, so that a later read gives it (20_memory.md R63, R72), and at TXDATA it is also
emitted (R63, R67). -/
def State.writeByte (s : State) (a : Word) (v : Byte) : State :=
  let stored := s.setMem (s.mem.store a v)
  if a = s.params.txDataAddr then stored.pushOut v else stored

/-! ### Errors and faults -/

/-- `raise CommandError(code, op, chn)`: only `ERR` is written (60_exceptions.md R203). -/
def commandError (code : ErrCode) (op : BitVec 4) (ch : Chn) (s : State) : Result := .next (s.record code op false ch)

/-- `raise CallbackLifetimeViolation(c)` (60_exceptions.md R210, R213). -/
def callbackLifetimeViolation (ch : Chn) (s : State) : Result :=
  .next (((s.setChan ch.toNat
    { s.chan ch.toNat with phase := .faulted, cb := false, req := false, donePend := false }).record
      .callbackLifetime 0x5 false ch).markFaultedIf true)

/-- `raise BusError(c, a, dir)` (60_exceptions.md R211, R213). -/
def State.busError (s : State) (c : Nat) : State :=
  ((s.setChan c { s.chan c with phase := .faulted, req := false }).record
    .busError 0x0 true (BitVec.ofNat 4 c)).markFaultedIf true

/-- `raise HostAccessFault(off)`: no engine state changes, the host sees the platform's response, the run is marked
(60_exceptions.md R213, R214; decision D22; log entry 9). -/
def hostAccessFault (off : BitVec 12) (s : State) : Result :=
  .next ((s.setHostResp (.accessFault off s.params.hostFaultResponse)).markFaultedIf true)

/-- A reserved operation code (30_encoding.md R83; 60_exceptions.md R205). -/
def illegalOp (op : BitVec 4) (ch : Chn) (s : State) : Result := commandError .illegalOp op ch s

/-- Carry on with the next step of an expansion (30_encoding.md R95). -/
def andThen (r : Result) (f : State → Result) : Result :=
  match r with
  | .next s => f s
  | .fault e => .fault e
  | .refused e => .refused e

/-! ### Updates of one channel -/

/-- `Trigger(t)` at one channel (43_engine.md R161). -/
def Channel.trigger (t : BitVec 8) (c : Channel) : Channel :=
  if c.boundTo t then
    if c.phase.active && !c.req then { c with req := true } else { c with ovr := satSucc c.ovr }
  else c

/-- What ACTB writes (41_activation.md R122). -/
def Channel.activate (c : Channel) (src dst : Word) (nm1 : BitVec 16) : Channel :=
  { c with
    src := src
    dst := dst
    nm1 := nm1
    burst := false
    slot := false
    remain := nm1.setWidth 17 + 1
    req := false
    donePend := false
    phase := .armed }

/-- `Complete(c)` (43_engine.md R168). -/
def Channel.complete (c : Channel) : Channel :=
  { c with phase := .completed, done := c.done + 1, donePend := c.ie || c.donePend }

/-- What a transferred unit writes in its channel (43_engine.md R166, R168, R169). -/
def Channel.afterUnit (c : Channel) : Channel :=
  let moved := { c with req := false, remain := c.remain - 1 }
  if c.remain - 1 = 0 then moved.complete else { moved with phase := .inProgress }

/-- `ReArm(c)` (43_engine.md R175). -/
def Channel.rearm (c : Channel) : Channel :=
  { c with donePend := false, remain := c.units, req := false, phase := .armed }

end Sys2Proof.Machine
end

