-- ==== Sys2Proof/Machine/Activation.lean ====
section
/-! DEFINITION. ACTB, STOP, UNBIND (41_activation.md). The checks stand in the order of 60_exceptions.md R204. -/

namespace Sys2Proof.Machine

/-- ACTB (41_activation.md R122, R124). A successful ACTB that latches a staging register never written since reset marks
the run (60_exceptions.md R213, U3; log entry 24). -/
def execActb (ch : Chn) (slot burst : Bool) (res72 : BitVec 6) (nm1 : BitVec 16) (s : State) : Result :=
  let c := s.chan ch.toNat
  if s.numChannels ≤ ch.toNat then commandError .badChannel 0x3 ch s
  else if res72 ≠ 0 then commandError .reservedBits 0x3 ch s
  else if c.phase = .faulted then commandError .channelFaulted 0x3 ch s
  else if c.phase = .stopped then commandError .stopped 0x3 ch s
  else if c.phase.active then commandError .busy 0x3 ch s
  else if slot = true ∨ burst = true then commandError .unsupportedValue 0x3 ch s
  else if s.params.maxUnits ≤ nm1.toNat then commandError .countRange 0x3 ch s
  else if c.cfg = false ∨ c.desc0.valid = false then commandError .notConfigured 0x3 ch s
  else .next ((s.setChan ch.toNat (c.activate s.argSrc s.argDst nm1)).markFaultedIf
    (!s.argSrcWritten || !s.argDstWritten))

/-- STOP (41_activation.md R126, R127). -/
def execStop (ch : Chn) (pay : BitVec 24) (s : State) : Result :=
  let c := s.chan ch.toNat
  if s.numChannels ≤ ch.toNat then commandError .badChannel 0x4 ch s
  else if pay ≠ 0 then commandError .reservedBits 0x4 ch s
  else if c.phase = .faulted ∨ c.phase = .stopped then .next s
  else .next (s.setChan ch.toNat { c with phase := .stopped, req := false, donePend := false })

/-- UNBIND (41_activation.md R129, R130). -/
def execUnbind (ch : Chn) (pay : BitVec 24) (s : State) : Result :=
  let c := s.chan ch.toNat
  if s.numChannels ≤ ch.toNat then commandError .badChannel 0x5 ch s
  else if pay ≠ 0 then commandError .reservedBits 0x5 ch s
  else if c.phase.active then callbackLifetimeViolation ch s
  else .next (s.setChan ch.toNat { c with cb := false })

end Sys2Proof.Machine
end

