-- ==== Sys2Proof/Machine/Configuration.lean ====
section
/-! DEFINITION. NOP, CFGCH, CFGDESC (40_configuration.md). The checks stand in the order of 60_exceptions.md R204. -/

namespace Sys2Proof.Machine

/-- NOP (40_configuration.md R100). -/
def execNop (ch : Chn) (pay : BitVec 24) (s : State) : Result :=
  if ch ≠ 0 ∨ pay ≠ 0 then commandError .reservedBits 0x0 ch s
  else .next s

/-- CFGCH (40_configuration.md R104 to R106). -/
def execCfgch (ch : Chn) (prio ie cb res3 : Bool) (trig : BitVec 8) (resHi : BitVec 12) (s : State) : Result :=
  let c := s.chan ch.toNat
  if s.numChannels ≤ ch.toNat then commandError .badChannel 0x1 ch s
  else if res3 = true ∨ resHi ≠ 0 then commandError .reservedBits 0x1 ch s
  else if c.phase = .faulted then commandError .channelFaulted 0x1 ch s
  else if c.phase = .stopped then commandError .stopped 0x1 ch s
  else if c.phase.active then commandError .busy 0x1 ch s
  else if trig ∉ s.params.triggerSet then commandError .unsupportedValue 0x1 ch s
  else .next (s.setChan ch.toNat
    { c with prio := prio, ie := ie, cb := cb, trig := trig, cfg := true, donePend := c.donePend && ie })

/-- CFGDESC (40_configuration.md R108 to R113). -/
def execCfgdesc (ch : Chn) (slot sinc dinc res3 : Bool) (size res76 : BitVec 2) (arb : BitVec 4) (prot : BitVec 3)
    (resHi : BitVec 9) (s : State) : Result :=
  let c := s.chan ch.toNat
  if s.numChannels ≤ ch.toNat then commandError .badChannel 0x2 ch s
  else if res3 = true ∨ res76 ≠ 0 ∨ resHi ≠ 0 then commandError .reservedBits 0x2 ch s
  else if c.phase = .faulted then commandError .channelFaulted 0x2 ch s
  else if c.phase = .stopped then commandError .stopped 0x2 ch s
  else if c.phase.active then commandError .busy 0x2 ch s
  else if size ≠ 0 then commandError .unsupportedValue 0x2 ch s
  else
    let d : Desc := { valid := true, sinc := sinc, dinc := dinc, size := size, arb := arb, prot := prot }
    .next (s.setChan ch.toNat (if slot then { c with desc1 := d } else { c with desc0 := d }))

end Sys2Proof.Machine
end

