-- ==== Sys2Proof/Machine/Illegal.lean ====
section
/-! DEFINITION. The seven reserved operation codes (30_encoding.md R83; 60_exceptions.md R205): whatever the payload, the
error is recorded with OP and CH as written. -/

namespace Sys2Proof.Machine

/-- OP 0x9 (60_exceptions.md R205). -/
def execIllegal9 (ch : Chn) (_pay : BitVec 24) (s : State) : Result := illegalOp 0x9 ch s

/-- OP 0xA (60_exceptions.md R205). -/
def execIllegalA (ch : Chn) (_pay : BitVec 24) (s : State) : Result := illegalOp 0xA ch s

/-- OP 0xB (60_exceptions.md R205). -/
def execIllegalB (ch : Chn) (_pay : BitVec 24) (s : State) : Result := illegalOp 0xB ch s

/-- OP 0xC (60_exceptions.md R205). -/
def execIllegalC (ch : Chn) (_pay : BitVec 24) (s : State) : Result := illegalOp 0xC ch s

/-- OP 0xD (60_exceptions.md R205). -/
def execIllegalD (ch : Chn) (_pay : BitVec 24) (s : State) : Result := illegalOp 0xD ch s

/-- OP 0xE (60_exceptions.md R205). -/
def execIllegalE (ch : Chn) (_pay : BitVec 24) (s : State) : Result := illegalOp 0xE ch s

/-- OP 0xF (60_exceptions.md R205). -/
def execIllegalF (ch : Chn) (_pay : BitVec 24) (s : State) : Result := illegalOp 0xF ch s

end Sys2Proof.Machine
end

