-- ==== Sys2Proof/Machine/Status.lean ====
section
/-! DEFINITION. CLROVR, ACKERR, ACKDONE (42_status.md). -/

namespace Sys2Proof.Machine

/-- CLROVR (42_status.md R140). -/
def execClrovr (ch : Chn) (pay : BitVec 24) (s : State) : Result :=
  if s.numChannels ≤ ch.toNat then commandError .badChannel 0x6 ch s
  else if pay ≠ 0 then commandError .reservedBits 0x6 ch s
  else .next (s.setChan ch.toNat { s.chan ch.toNat with ovr := 0 })

/-- ACKERR (42_status.md R141). -/
def execAckerr (ch : Chn) (pay : BitVec 24) (s : State) : Result :=
  if ch ≠ 0 ∨ pay ≠ 0 then commandError .reservedBits 0x7 ch s
  else .next (s.setErr 0)

/-- ACKDONE (42_status.md R142). -/
def execAckdone (ch : Chn) (pay : BitVec 24) (s : State) : Result :=
  if s.numChannels ≤ ch.toNat then commandError .badChannel 0x8 ch s
  else if pay ≠ 0 then commandError .reservedBits 0x8 ch s
  else .next (s.setChan ch.toNat { s.chan ch.toNat with donePend := false })

end Sys2Proof.Machine
end

