-- ==== Sys2Proof/Machine/HostAccess.lean ====
section
/-! DEFINITION. The host's register accesses (42_status.md section 4) and the pseudo-instructions (30_encoding.md R95). -/

namespace Sys2Proof.Machine

/-- Run a decoded command. The access forms and pseudo-instructions are no command: `decodeCommand` never answers one, and
they leave the state alone here. -/
def runCommand (i : Instr) (s : State) : Result :=
  match i with
  | .nop ch pay => execNop ch pay s
  | .cfgch ch prio ie cb res3 trig resHi => execCfgch ch prio ie cb res3 trig resHi s
  | .cfgdesc ch slot sinc dinc res3 size res76 arb prot resHi =>
    execCfgdesc ch slot sinc dinc res3 size res76 arb prot resHi s
  | .actb ch slot burst res72 nm1 => execActb ch slot burst res72 nm1 s
  | .stop ch pay => execStop ch pay s
  | .unbind ch pay => execUnbind ch pay s
  | .clrovr ch pay => execClrovr ch pay s
  | .ackerr ch pay => execAckerr ch pay s
  | .ackdone ch pay => execAckdone ch pay s
  | .illegal9 ch pay => execIllegal9 ch pay s
  | .illegalA ch pay => execIllegalA ch pay s
  | .illegalB ch pay => execIllegalB ch pay s
  | .illegalC ch pay => execIllegalC ch pay s
  | .illegalD ch pay => execIllegalD ch pay s
  | .illegalE ch pay => execIllegalE ch pay s
  | .illegalF ch pay => execIllegalF ch pay s
  | .wrCmd _ => .next s
  | .wrArgSrc _ => .next s
  | .wrArgDst _ => .next s
  | .wrReadOnly _ _ => .next s
  | .rd _ => .next s
  | .hostAccessFault _ => .next s
  | .arm _ _ _ _ => .next s
  | .initeng => .next s

/-- WR CMD, v: decode `v` and execute the command it spells, in the same step (42_status.md R143). -/
def execWrCmd (v : Word) (s : State) : Result := runCommand (decodeCommand v) s

/-- WR ARG_SRC, v (42_status.md R143). -/
def execWrArgSrc (v : Word) (s : State) : Result := .next (s.setArgSrc v)

/-- WR ARG_DST, v (42_status.md R143). -/
def execWrArgDst (v : Word) (s : State) : Result := .next (s.setArgDst v)

/-- WR off, v to a mapped read-only offset: no effect (42_status.md R144). A term whose offset is not read-only, which the
decoder never answers, does what the write at that offset does (42_status.md R143, R146; log entry 18). -/
def execWrReadOnly (off : BitVec 12) (v : Word) (s : State) : Result :=
  match regAt s.numChannels off with
  | some .cmd => execWrCmd v s
  | some .argSrc => execWrArgSrc v s
  | some .argDst => execWrArgDst v s
  | some .err => .next s
  | some .donePend => .next s
  | some .info => .next s
  | some (.chan _ _) => .next s
  | none => hostAccessFault off s

/-- RD off of a mapped offset: the host gets the register's word, and nothing else changes (42_status.md R147, R148). A term
whose offset is not mapped, which the decoder never answers, is the access of 42_status.md R146. -/
def execRd (off : BitVec 12) (s : State) : Result :=
  match regAt s.numChannels off with
  | some r => .next (s.setHostResp (.word (s.regWord r)))
  | none => hostAccessFault off s

/-- The access that is unmapped, misaligned or not 32 bits wide (42_status.md R145, R146; 60_exceptions.md R214). -/
def execHostAccessFault (a : HostAccess) (s : State) : Result := hostAccessFault a.off s

/-- ARM ch, src, dst, nm1: its expansion's three steps with no other agent's step between them (30_encoding.md R95; log
entry 12). -/
def execArm (ch : Chn) (src dst : Word) (nm1 : BitVec 16) (s : State) : Result :=
  andThen (execWrArgSrc src s) fun s1 =>
    andThen (execWrArgDst dst s1) fun s2 => execActb ch false false 0 nm1 s2

/-- INITENG: ACKERR (30_encoding.md R95). -/
def execIniteng (s : State) : Result := execAckerr 0 0 s

end Sys2Proof.Machine
end

