-- ==== Sys2Proof/Machine/Dispatch.lean ====
section
/-! DEFINITION. `exec`: one arm per row of spec/opcode_table.json. -/

namespace Sys2Proof.Machine

def exec (i : Instr) (s : State) : Host.Outcome State Fault Refusal :=
  match i with
  | .nop ch pay => Sys2Proof.Machine.execNop ch pay s
  | .cfgch ch prio ie cb res3 trig resHi => Sys2Proof.Machine.execCfgch ch prio ie cb res3 trig resHi s
  | .cfgdesc ch slot sinc dinc res3 size res76 arb prot resHi => Sys2Proof.Machine.execCfgdesc ch slot sinc dinc res3 size res76 arb prot resHi s
  | .actb ch slot burst res72 nm1 => Sys2Proof.Machine.execActb ch slot burst res72 nm1 s
  | .stop ch pay => Sys2Proof.Machine.execStop ch pay s
  | .unbind ch pay => Sys2Proof.Machine.execUnbind ch pay s
  | .clrovr ch pay => Sys2Proof.Machine.execClrovr ch pay s
  | .ackerr ch pay => Sys2Proof.Machine.execAckerr ch pay s
  | .ackdone ch pay => Sys2Proof.Machine.execAckdone ch pay s
  | .illegal9 ch pay => Sys2Proof.Machine.execIllegal9 ch pay s
  | .illegalA ch pay => Sys2Proof.Machine.execIllegalA ch pay s
  | .illegalB ch pay => Sys2Proof.Machine.execIllegalB ch pay s
  | .illegalC ch pay => Sys2Proof.Machine.execIllegalC ch pay s
  | .illegalD ch pay => Sys2Proof.Machine.execIllegalD ch pay s
  | .illegalE ch pay => Sys2Proof.Machine.execIllegalE ch pay s
  | .illegalF ch pay => Sys2Proof.Machine.execIllegalF ch pay s
  | .wrCmd v => Sys2Proof.Machine.execWrCmd v s
  | .wrArgSrc v => Sys2Proof.Machine.execWrArgSrc v s
  | .wrArgDst v => Sys2Proof.Machine.execWrArgDst v s
  | .wrReadOnly off v => Sys2Proof.Machine.execWrReadOnly off v s
  | .rd off => Sys2Proof.Machine.execRd off s
  | .hostAccessFault a => Sys2Proof.Machine.execHostAccessFault a s
  | .arm ch src dst nm1 => Sys2Proof.Machine.execArm ch src dst nm1 s
  | .initeng => Sys2Proof.Machine.execIniteng s

end Sys2Proof.Machine
end

