-- ==== Sys2Proof/Machine/Engine.lean ====
section
/-! DEFINITION. The steps without an encoding: trigger, grant, re-arm (43_engine.md), reset (70_reset_and_hazards.md R240)
and the host's loads and stores of memory bytes (20_memory.md R62, R72, R76). -/

namespace Sys2Proof.Machine

/-- `Trigger(t)`: every bound channel takes it or counts it as loss, in one step (43_engine.md R161 to R164). A code that
names no event is passed over (43_engine.md R160, R162; log entry 8). -/
def State.triggerStep (s : State) (t : BitVec 8) : State :=
  if triggerCode s.params t then s.mapChans (Channel.trigger t) else s

/-- One unit of channel `c` (43_engine.md R166, R170): the read is checked and made, then the write is checked and made,
then the channel advances. -/
def State.unitStep (s : State) (c : Nat) : State :=
  let ch := s.chan c
  if !readable s.params ch.srcAddr then s.busError c
  else if !writable s.params ch.dstAddr then (s.afterRead ch.srcAddr).busError c
  else ((s.afterRead ch.srcAddr).writeByte ch.dstAddr (s.readByte ch.srcAddr)).setChan c ch.afterUnit

/-- `Grant(c)` where it is enabled (43_engine.md R165); otherwise the event is passed over (log entry 7). -/
def State.grantStep (s : State) (c : Nat) : State := if s.grantEnabled c then s.unitStep c else s

/-- `ReArm(c)` where it is enabled (43_engine.md R175); otherwise the event is passed over (log entry 7). -/
def State.rearmStep (s : State) (c : Nat) : State := if s.rearmEnabled c then s.setChan c (s.chan c).rearm else s

/-- Reset of the engine (70_reset_and_hazards.md R240, R241; 10_state.md R35, R36): every field of the engine, a fresh draw
for each staging register, a fresh received stream; memory, the byte-out events, the parameters, what the host last saw,
the agenda and the mark of the run stay (log entry 16). -/
def State.resetStep (s : State) : State :=
  { s with
    chans := s.chans.map fun _ => Channel.reset
    argSrc := Config.argSrcDraw (s.resets + 1)
    argDst := Config.argDstDraw (s.resets + 1)
    err := 0
    argSrcWritten := false
    argDstWritten := false
    rxStream := []
    rxReads := 0
    resets := s.resets + 1 }

/-- The host stores a byte (20_memory.md R67, R72, R76). In the engine's block that is an access of another width than 32 bits
(42_status.md R145; log entry 13). -/
def hostStoreStep (a : Word) (v : Byte) (s : State) : Result :=
  match blockOffset s.params a with
  | some off => hostAccessFault off s
  | none => .next (s.writeByte a v)

/-- The host loads a byte (20_memory.md R67, R72, R76). In the engine's block that is an access of another width than 32 bits
(42_status.md R145; log entry 13). -/
def hostLoadStep (a : Word) (s : State) : Result :=
  match blockOffset s.params a with
  | some off => hostAccessFault off s
  | none => .next ((s.afterRead a).setHostResp (.byte (s.readByte a)))

end Sys2Proof.Machine
end

