-- ==== Sys2Proof/Machine/Step.lean ====
section
/-! DEFINITION. One step of the one total order of steps (00_scope.md R5), and how an instruction is placed to be the next
one run. -/

namespace Sys2Proof.Machine

/-- What an event does: a host register access is decoded and executed (42_status.md R143 to R147); the rest are the steps
of the engine, of the environment and of the host's memory accesses. -/
def takeEvent (e : Event) (s : State) : Host.Outcome State Fault Refusal :=
  match e with
  | .host a => exec (decodeAccess s.numChannels a) s
  | .hostStore a v => hostStoreStep a v s
  | .hostLoad a => hostLoadStep a s
  | .trigger t => .next (s.triggerStep t)
  | .grant c => .next (s.grantStep c)
  | .rearm c => .next (s.rearmStep c)
  | .reset => .next s.resetStep

/-- One step: the oldest event of the agenda, or a freely drawn one when the agenda is empty (00_scope.md R5, U5 to U8; log
entry 6). The agenda or the draw count moves first, so every event runs in the state it leaves behind. -/
def step (s : State) : Host.Outcome State Fault Refusal :=
  match s.agenda with
  | [] => takeEvent (Config.nextEvent s.drawn) s.countDraw
  | e :: es => takeEvent e (s.setAgenda es)

/-- Put the host access that the bits `w` of a table row of `nbits` bits spell in front of the agenda: a 32-bit row is a
command word, written to CMD (42_status.md R143); a row of at most 16 bits is an access by its offset (log entries 14, 15).
Bits that spell no access leave the state as it is. -/
def State.withFetchWord (s : State) (nbits w : Nat) : State :=
  if nbits = 32 then s.setAgenda (.host (wrAccess 0x000 (BitVec.ofNat 32 w)) :: s.agenda)
  else if nbits ≤ 16 then
    match accessOfBits (BitVec.ofNat 16 w) 0 with
    | some a => s.setAgenda (.host a :: s.agenda)
    | none => s
  else s

end Sys2Proof.Machine
end

