-- ==== Sys2Proof/Safety.lean ====
section
/-! DEFINITION. The terms claims are stated in: the fixed facts of the parameters (00_scope.md R7, 20_memory.md R61), the
invariants of 10_state.md R26 with what the model needs beside them (log entry 21), what a step leaves alone, and the named
assumptions about runs (43_engine.md R179, 60_exceptions.md R230). -/

namespace Sys2Proof.Machine

/-- A range with no address in the engine's register block (20_memory.md R61). -/
def clearOfBlock (base : Word) (r : AddrRange) : Bool := r.hi < r.lo || r.hi < base || base + 0xFFF#32 < r.lo

/-- What the spec fixes of the OPEN parameters (00_scope.md R7; 20_memory.md R61). -/
structure ParamsOk (p : Params) : Prop where
  maxUnits_pos      : 1 ≤ p.maxUnits
  maxUnits_le       : p.maxUnits ≤ 65536
  trigger_none      : 0x00 ∈ p.triggerSet
  trigger_rx        : 0x01 ∈ p.triggerSet
  trigger_tx        : 0x02 ∈ p.triggerSet
  base_aligned      : p.engineBase.extractLsb' 0 12 = 0
  rx_readable       : readable p p.rxDataAddr = true
  rx_not_writable   : writable p p.rxDataAddr = false
  tx_writable       : writable p p.txDataAddr = true
  tx_not_readable   : readable p p.txDataAddr = false
  block_not_read    : p.readMap.all (clearOfBlock p.engineBase) = true
  block_not_written : p.writeMap.all (clearOfBlock p.engineBase) = true

/-- 10_state.md R26 for one channel, item by item. -/
structure ChannelR26 (p : Params) (c : Channel) : Prop where
  item1      : c.req = true → c.phase = .armed ∨ c.phase = .inProgress
  item2      : c.donePend = true → c.phase = .completed ∧ c.ie = true
  item3      : c.phase = .armed ∨ c.phase = .inProgress →
    c.cfg = true ∧ c.desc0.valid = true ∧ 1 ≤ c.remain.toNat ∧ c.remain.toNat ≤ c.nm1.toNat + 1
      ∧ c.nm1.toNat < p.maxUnits
  item4armed : c.phase = .armed → c.remain.toNat = c.nm1.toNat + 1
  item4prog  : c.phase = .inProgress → 1 ≤ c.remain.toNat ∧ c.remain.toNat ≤ c.nm1.toNat
  item5      : c.phase = .completed → c.remain = 0
  item6      : c.phase ≠ .unarmed → c.cfg = true ∨ c.phase = .stopped

/-- What R26 needs beside it to be kept by every step, and what other rules say is always so: a completed channel was
activated (43_engine.md R176), BURST, SLOT and SIZE hold their one admitted value (10_state.md R23, R22), TRIG is a code of
TRIGGER_SET (30_encoding.md R86). DEDUCED, safe, log entry 21. -/
structure ChannelExtra (p : Params) (c : Channel) : Prop where
  completed_valid : c.phase = .completed → c.cfg = true ∧ c.desc0.valid = true ∧ c.nm1.toNat < p.maxUnits
  burst_zero      : c.burst = false
  slot_zero       : c.slot = false
  size0_zero      : c.desc0.size = 0
  size1_zero      : c.desc1.size = 0
  trig_admitted   : c.trig ∈ p.triggerSet

/-- The error record holds only what 60_exceptions.md R201 and R202 let it hold: nothing at all without VALID, reserved bits
0, no reserved code (U18), ENG exactly for BUS_ERROR. -/
structure ErrOk (e : Word) : Prop where
  invalid_zero  : e.getLsbD 31 = false → e = 0
  reserved_low  : e.extractLsb' 9 3 = 0
  reserved_high : e.extractLsb' 16 14 = 0
  code_named    : (e.extractLsb' 0 4).toNat ≤ 0xB
  eng_bus       : e.getLsbD 8 = (e.extractLsb' 0 4 == 0xB#4)

/-- The invariant of the machine: it holds at reset, and every step keeps it. No byte is ever written in the engine's register
block (20_memory.md R61, 42_status.md R145). -/
structure Inv (s : State) : Prop where
  channels_ge    : 2 ≤ s.numChannels
  channels_le    : s.numChannels ≤ 16
  params         : ParamsOk s.params
  r26            : ∀ c ∈ s.chans, ChannelR26 s.params c
  extra          : ∀ c ∈ s.chans, ChannelExtra s.params c
  err            : ErrOk s.err
  mem_wf         : s.mem.wf
  mem_clear      : ∀ x ∈ s.mem, blockOffset s.params (BitVec.ofNat 32 x.1) = none
  faulted_marked : ∀ c ∈ s.chans, c.phase = .faulted → s.runFaulted = true

/-- `t` differs from `s` at most in channel `c` (every other field of the state, and every other channel, is as it was). -/
def OnlyChannel (s t : State) (c : Nat) : Prop :=
  t = { s with chans := t.chans } ∧ t.chans.length = s.chans.length ∧ ∀ d, d ≠ c → t.chan d = s.chan d

/-- `t` differs from `s` only in that the command error `code` of a command `op` on `ch` has been recorded
(60_exceptions.md R203). -/
def RecordsOnly (s t : State) (code : ErrCode) (op : BitVec 4) (ch : Chn) : Prop :=
  t = { s with err := recordErr s.err code op false ch }

/-- The phase changes of 41_activation.md R132 other than "stay" and reset. -/
def phaseChanges : List (Phase × Phase) :=
  [(.unarmed, .armed), (.unarmed, .stopped),
   (.armed, .inProgress), (.armed, .completed), (.armed, .stopped), (.armed, .faulted),
   (.inProgress, .completed), (.inProgress, .stopped), (.inProgress, .faulted),
   (.completed, .armed), (.completed, .stopped)]

/-- The steps that take a channel through one unit: its trigger, then its grant (43_engine.md R166, R167 item 4). -/
def State.triggerAndGrant (s : State) (t : BitVec 8) (c : Nat) : State := (s.triggerStep t).grantStep c

/-- `k` units of channel `c`, each on its own trigger. -/
def State.units (t : BitVec 8) (c : Nat) : Nat → State → State
  | 0, s => s
  | k + 1, s => (State.units t c k s).triggerAndGrant t c

/-- One byte time of the lockstep environment for receive channel `r` and transmit channel `t` (60_exceptions.md R230;
95_test_vectors.md section 0): a re-arm that is not enabled is passed over (log entry 7). -/
def lockstepByteTime (r t : Nat) : List Event :=
  [.trigger 0x02, .grant t, .rearm t, .trigger 0x01, .grant r, .rearm r]

/-- An infinite run from `s0`: the state before each step, with no fault and no refusal. -/
structure IsRun (s0 : State) (run : Nat → State) : Prop where
  start : run 0 = s0
  steps : ∀ k, step (run k) = .next (run (k + 1))

/-- The event the step from `s` takes. -/
def State.headEvent (s : State) : Event := s.agenda.head?.getD (Config.nextEvent s.drawn)

/-- Weak fairness of the burst sequencer and the re-arm controller (43_engine.md R179): a `Grant` or `ReArm` that stays
enabled is eventually taken. An assumption a claim about infinite runs may take; the one deterministic step neither proves
nor uses it (log entry 20). -/
structure WeaklyFair (run : Nat → State) : Prop where
  grants : ∀ c k, (∀ j, k ≤ j → (run j).grantEnabled c = true) → ∃ j, k ≤ j ∧ (run j).headEvent = .grant c
  rearms : ∀ c k, (∀ j, k ≤ j → (run j).rearmEnabled c = true) → ∃ j, k ≤ j ∧ (run j).headEvent = .rearm c

end Sys2Proof.Machine
end

