-- ==== Sys2Proof/Certificates/Slice0/Obligations.lean ====
section
/-! DEFINITION. The statements for the provers, from the numbered rules of spec/. -/

open Sys2Proof Sys2Proof.Machine

/-! ### Encoding -/

/-- 30_encoding.md R80 to R91, R93: decoding the word of any command gives the command back, with every field, the reserved
ones too, at every value. -/
def Obligations.CommandEncodeDecodeAgree : Prop :=
  ∀ (i : Instr) (w : Word), encodeCommand i = some w → decodeCommand w = i

/-- 30_encoding.md R93: every 32-bit word is a command or illegal, and no bit of it is dropped. -/
def Obligations.CommandDecodeEncodeAgree : Prop :=
  ∀ w : Word, encodeCommand (decodeCommand w) = some w

/-- 30_encoding.md R92, 42_status.md R143 to R147: a decoded host access is well formed and encodes to that access. -/
def Obligations.AccessDecodeEncodeAgree : Prop :=
  ∀ (n : Nat) (a : HostAccess), (decodeAccess n a).wellFormed n = true ∧ encode (decodeAccess n a) = [a]

/-- 30_encoding.md R92, 42_status.md R143: a well-formed access form decodes back from its access; a command's access is the
write of its word to CMD. -/
def Obligations.AccessEncodeDecodeAgree : Prop :=
  (∀ (n : Nat) (i : Instr), i.wellFormed n = true → encodeCommand i = none → i ≠ .initeng →
    (∀ ch src dst nm1, i ≠ .arm ch src dst nm1) → (encode i).map (decodeAccess n) = [i])
  ∧ ∀ (n : Nat) (i : Instr) (w : Word), encodeCommand i = some w → (encode i).map (decodeAccess n) = [.wrCmd w]

/-- 30_encoding.md R93 with R80, R82, R85, R87, R89, R90, R91: the command a word spells, from its OP, CH and PAY fields,
with every payload field taken from the bits of its table. -/
def Obligations.DecodeFollowsTables : Prop :=
  ∀ (ch : Chn) (pay : BitVec 24),
    decodeCommand (0x0#4 ++ ch ++ pay) = .nop ch pay
    ∧ decodeCommand (0x1#4 ++ ch ++ pay) = .cfgch ch (pay.getLsbD 0) (pay.getLsbD 1) (pay.getLsbD 2) (pay.getLsbD 3)
        (pay.extractLsb' 4 8) (pay.extractLsb' 12 12)
    ∧ decodeCommand (0x2#4 ++ ch ++ pay) = .cfgdesc ch (pay.getLsbD 0) (pay.getLsbD 1) (pay.getLsbD 2) (pay.getLsbD 3)
        (pay.extractLsb' 4 2) (pay.extractLsb' 6 2) (pay.extractLsb' 8 4) (pay.extractLsb' 12 3) (pay.extractLsb' 15 9)
    ∧ decodeCommand (0x3#4 ++ ch ++ pay) = .actb ch (pay.getLsbD 0) (pay.getLsbD 1) (pay.extractLsb' 2 6)
        (pay.extractLsb' 8 16)
    ∧ decodeCommand (0x4#4 ++ ch ++ pay) = .stop ch pay
    ∧ decodeCommand (0x5#4 ++ ch ++ pay) = .unbind ch pay
    ∧ decodeCommand (0x6#4 ++ ch ++ pay) = .clrovr ch pay
    ∧ decodeCommand (0x7#4 ++ ch ++ pay) = .ackerr ch pay
    ∧ decodeCommand (0x8#4 ++ ch ++ pay) = .ackdone ch pay
    ∧ decodeCommand (0x9#4 ++ ch ++ pay) = .illegal9 ch pay
    ∧ decodeCommand (0xA#4 ++ ch ++ pay) = .illegalA ch pay
    ∧ decodeCommand (0xB#4 ++ ch ++ pay) = .illegalB ch pay
    ∧ decodeCommand (0xC#4 ++ ch ++ pay) = .illegalC ch pay
    ∧ decodeCommand (0xD#4 ++ ch ++ pay) = .illegalD ch pay
    ∧ decodeCommand (0xE#4 ++ ch ++ pay) = .illegalE ch pay
    ∧ decodeCommand (0xF#4 ++ ch ++ pay) = .illegalF ch pay

/-- 30_encoding.md R94, R107 of 40_configuration.md and 95_test_vectors.md: words written out from the syntax table. -/
def Obligations.CommandWordsDecode : Prop :=
  decodeCommand 0x00000000 = .nop 0 0
  ∧ decodeCommand 0x10000016 = .cfgch 0 false true true false 0x01 0
  ∧ decodeCommand 0x20007F06 = .cfgdesc 0 false true true false 0 0 15 7 0
  ∧ decodeCommand 0x31000900 = .actb 1 false false 0 9
  ∧ decodeCommand 0x40000000 = .stop 0 0
  ∧ decodeCommand 0x53000000 = .unbind 3 0
  ∧ decodeCommand 0x61000000 = .clrovr 1 0
  ∧ decodeCommand 0x70000001 = .ackerr 0 1
  ∧ decodeCommand 0x81000000 = .ackdone 1 0
  ∧ decodeCommand 0xF3ABCDEF = .illegalF 3 0xABCDEF

/-- 42_status.md R145, R146, 60_exceptions.md R214: exactly the accesses of another width, at an offset that is not a
multiple of 4, or at an offset 10_state.md R31 does not map, raise HostAccessFault; no engine state changes. -/
def Obligations.BadAccessRaisesHostAccessFault : Prop :=
  ∀ (s : State) (a : HostAccess),
    (decodeAccess s.numChannels a = .hostAccessFault a ↔
      a.width ≠ .word ∨ a.off.toNat % 4 ≠ 0 ∨ (0x018 ≤ a.off.toNat ∧ a.off.toNat < 0x100)
        ∨ 0x100 + 0x40 * s.numChannels ≤ a.off.toNat ∨ (0x100 ≤ a.off.toNat ∧ 0x24 ≤ (a.off.toNat - 0x100) % 0x40))
    ∧ (decodeAccess s.numChannels a = .hostAccessFault a →
        exec (decodeAccess s.numChannels a) s
          = .next { s with hostResp := .accessFault a.off s.params.hostFaultResponse, runFaulted := true })

/-! ### Steps -/

/-- 00_scope.md R5 and log entry 6: a step takes the oldest event of the agenda, or a freely drawn one. -/
def Obligations.StepTakesHeadEvent : Prop :=
  ∀ s : State,
    (∀ e es, s.agenda = e :: es → step s = takeEvent e (s.setAgenda es))
    ∧ (s.agenda = [] → step s = takeEvent (Config.nextEvent s.drawn) s.countDraw)

/-- 42_status.md R143 to R147: when the next event is a host register access, the step is `exec` of the instruction it
decodes to, in the state with that event taken off the agenda. -/
def Obligations.StepRunsDecodedAccess : Prop :=
  ∀ (s : State) (a : HostAccess) (es : List Event) (i : Instr),
    s.agenda = .host a :: es → decodeAccess s.numChannels a = i → i.wellFormed s.numChannels = true →
    step s = exec i (s.setAgenda es)

/-- Log entries 14 and 15: a placed command word is the very next thing run, and the state is otherwise as it was. -/
def Obligations.PlacedWordRunsNext : Prop :=
  ∀ (s : State) (w : Nat), step (s.withFetchWord 32 w) = exec (decodeCommand (BitVec.ofNat 32 w)) s

/-- 42_status.md R143: a write to CMD executes the command its word spells, in the same step; a write to ARG_SRC or ARG_DST
sets it. That the model also remembers the write is `Obligations.RunIsMarked`. -/
def Obligations.HostWritesTakeEffect : Prop :=
  ∀ (s : State) (v : Word),
    (∃ t, exec (decodeAccess s.numChannels (wrAccess 0x000 v)) s = .next t ∧ exec (.wrCmd v) s = .next t
      ∧ exec (decodeCommand v) s = .next t)
    ∧ (∃ t, exec (decodeAccess s.numChannels (wrAccess 0x004 v)) s = .next t ∧ exec (.wrArgSrc v) s = .next t
      ∧ t = { s with argSrc := v, argSrcWritten := t.argSrcWritten })
    ∧ ∃ t, exec (decodeAccess s.numChannels (wrAccess 0x008 v)) s = .next t ∧ exec (.wrArgDst v) s = .next t
      ∧ t = { s with argDst := v, argDstWritten := t.argDstWritten }

/-- 60_exceptions.md R203, R206, R214: no instruction ends the run; every one answers a next state in every state. -/
def Obligations.EveryInstructionAnswersNext : Prop :=
  ∀ (i : Instr) (s : State), ∃ t, exec i s = .next t

/-- 60_exceptions.md R203, R207, R210, R211, R214 (log entry 9): every step of the machine answers a next state, whatever
event it takes. -/
def Obligations.EveryStepAnswersNext : Prop :=
  ∀ s : State, ∃ t, step s = .next t

/-! ### Commands -/

/-- 40_configuration.md R100. -/
def Obligations.NopExecutes : Prop :=
  (∀ s, exec (.nop 0 0) s = .next s)
  ∧ ∀ (ch : Chn) (pay : BitVec 24) (s : State), ch ≠ 0 ∨ pay ≠ 0 →
      ∃ t, exec (.nop ch pay) s = .next t ∧ RecordsOnly s t .reservedBits 0x0 ch

/-- 40_configuration.md R104: the error a CFGCH reports, in the order of the checks (60_exceptions.md R204), with only `ERR`
changed (R203); and what a valid CFGCH writes, and that nothing else changes. -/
def Obligations.CfgchExecutes : Prop :=
  ∀ (s : State) (ch : Chn) (prio ie cb res3 : Bool) (trig : BitVec 8) (resHi : BitVec 12),
    let p := (s.chan ch.toNat).phase
    let fails := fun code => ∃ t, exec (.cfgch ch prio ie cb res3 trig resHi) s = .next t ∧ RecordsOnly s t code 0x1 ch
    (s.numChannels ≤ ch.toNat → fails .badChannel)
    ∧ (ch.toNat < s.numChannels → res3 = true ∨ resHi ≠ 0 → fails .reservedBits)
    ∧ (ch.toNat < s.numChannels → res3 = false → resHi = 0 →
        (p = .faulted → fails .channelFaulted)
        ∧ (p = .stopped → fails .stopped)
        ∧ (p = .armed ∨ p = .inProgress → fails .busy)
        ∧ (p = .unarmed ∨ p = .completed → trig ∉ s.params.triggerSet → fails .unsupportedValue)
        ∧ (p = .unarmed ∨ p = .completed → trig ∈ s.params.triggerSet →
            ∃ t, exec (.cfgch ch prio ie cb false trig 0) s = .next t ∧ OnlyChannel s t ch.toNat
              ∧ t.chan ch.toNat = { s.chan ch.toNat with
                  prio := prio, ie := ie, cb := cb, trig := trig, cfg := true,
                  donePend := if ie then (s.chan ch.toNat).donePend else false }))

/-- 40_configuration.md R108: the error a CFGDESC reports, whichever slot it names, in the order of the checks
(60_exceptions.md R204), with only `ERR` changed (R203); and what a valid CFGDESC writes in the slot it names, and that
nothing else changes. -/
def Obligations.CfgdescExecutes : Prop :=
  ∀ (s : State) (ch : Chn) (slot sinc dinc res3 : Bool) (size res76 : BitVec 2) (arb : BitVec 4) (prot : BitVec 3)
    (resHi : BitVec 9),
    let p := (s.chan ch.toNat).phase
    let d : Desc := { valid := true, sinc := sinc, dinc := dinc, size := 0, arb := arb, prot := prot }
    let fails := fun code => ∃ t,
      exec (.cfgdesc ch slot sinc dinc res3 size res76 arb prot resHi) s = .next t ∧ RecordsOnly s t code 0x2 ch
    (s.numChannels ≤ ch.toNat → fails .badChannel)
    ∧ (ch.toNat < s.numChannels → res3 = true ∨ res76 ≠ 0 ∨ resHi ≠ 0 → fails .reservedBits)
    ∧ (ch.toNat < s.numChannels → res3 = false → res76 = 0 → resHi = 0 →
        (p = .faulted → fails .channelFaulted)
        ∧ (p = .stopped → fails .stopped)
        ∧ (p = .armed ∨ p = .inProgress → fails .busy)
        ∧ (p = .unarmed ∨ p = .completed → size ≠ 0 → fails .unsupportedValue)
        ∧ (p = .unarmed ∨ p = .completed →
            (∃ t, exec (.cfgdesc ch false sinc dinc false 0 0 arb prot 0) s = .next t ∧ OnlyChannel s t ch.toNat
              ∧ t.chan ch.toNat = { s.chan ch.toNat with desc0 := d })
            ∧ ∃ t, exec (.cfgdesc ch true sinc dinc false 0 0 arb prot 0) s = .next t ∧ OnlyChannel s t ch.toNat
              ∧ t.chan ch.toNat = { s.chan ch.toNat with desc1 := d }))

/-- 41_activation.md R122: the error an ACTB reports, in the order of the checks (60_exceptions.md R204), with only `ERR`
changed (R203); and what a valid ACTB writes. Whether it marks the run is `Obligations.RunIsMarked`. -/
def Obligations.ActbExecutes : Prop :=
  ∀ (s : State) (ch : Chn) (slot burst : Bool) (res72 : BitVec 6) (nm1 : BitVec 16),
    let c := s.chan ch.toNat
    let fails := fun code => ∃ t, exec (.actb ch slot burst res72 nm1) s = .next t ∧ RecordsOnly s t code 0x3 ch
    (s.numChannels ≤ ch.toNat → fails .badChannel)
    ∧ (ch.toNat < s.numChannels → res72 ≠ 0 → fails .reservedBits)
    ∧ (ch.toNat < s.numChannels → res72 = 0 →
        (c.phase = .faulted → fails .channelFaulted)
        ∧ (c.phase = .stopped → fails .stopped)
        ∧ (c.phase = .armed ∨ c.phase = .inProgress → fails .busy)
        ∧ (c.phase = .unarmed ∨ c.phase = .completed →
            (slot = true ∨ burst = true → fails .unsupportedValue)
            ∧ (slot = false → burst = false → s.params.maxUnits ≤ nm1.toNat → fails .countRange)
            ∧ (slot = false → burst = false → nm1.toNat < s.params.maxUnits →
                c.cfg = false ∨ c.desc0.valid = false → fails .notConfigured)
            ∧ (nm1.toNat < s.params.maxUnits → c.cfg = true → c.desc0.valid = true →
                ∃ t, exec (.actb ch false false 0 nm1) s = .next t
                  ∧ OnlyChannel { s with runFaulted := t.runFaulted } t ch.toNat
                  ∧ t.chan ch.toNat = { c with
                      src := s.argSrc, dst := s.argDst, nm1 := nm1, burst := false, slot := false,
                      remain := BitVec.ofNat 17 (nm1.toNat + 1), req := false, donePend := false, phase := .armed })))

/-- 41_activation.md R126: STOP of a channel that is not there, with a payload, in a terminal phase, and in any other. -/
def Obligations.StopExecutes : Prop :=
  ∀ (s : State) (ch : Chn) (pay : BitVec 24),
    let c := s.chan ch.toNat
    (s.numChannels ≤ ch.toNat → ∃ t, exec (.stop ch pay) s = .next t ∧ RecordsOnly s t .badChannel 0x4 ch)
    ∧ (ch.toNat < s.numChannels → pay ≠ 0 → ∃ t, exec (.stop ch pay) s = .next t ∧ RecordsOnly s t .reservedBits 0x4 ch)
    ∧ (ch.toNat < s.numChannels →
        (c.phase = .faulted ∨ c.phase = .stopped → exec (.stop ch 0) s = .next s)
        ∧ (c.phase ≠ .faulted → c.phase ≠ .stopped →
            ∃ t, exec (.stop ch 0) s = .next t ∧ OnlyChannel s t ch.toNat
              ∧ t.chan ch.toNat = { c with phase := .stopped, req := false, donePend := false }))

/-- 41_activation.md R129, 60_exceptions.md R210: UNBIND with a field it may not have; on a channel that is not active, which
loses its callback; on an active one, which is a CallbackLifetimeViolation. That this marks the run is
`Obligations.RunIsMarked`. -/
def Obligations.UnbindExecutes : Prop :=
  ∀ (s : State) (ch : Chn) (pay : BitVec 24),
    let c := s.chan ch.toNat
    (s.numChannels ≤ ch.toNat → ∃ t, exec (.unbind ch pay) s = .next t ∧ RecordsOnly s t .badChannel 0x5 ch)
    ∧ (ch.toNat < s.numChannels → pay ≠ 0 →
        ∃ t, exec (.unbind ch pay) s = .next t ∧ RecordsOnly s t .reservedBits 0x5 ch)
    ∧ (ch.toNat < s.numChannels →
        (c.phase ≠ .armed → c.phase ≠ .inProgress →
          ∃ t, exec (.unbind ch 0) s = .next t ∧ OnlyChannel s t ch.toNat ∧ t.chan ch.toNat = { c with cb := false })
        ∧ (c.phase = .armed ∨ c.phase = .inProgress →
          ∃ t, exec (.unbind ch 0) s = .next t
            ∧ OnlyChannel { s with
                err := recordErr s.err .callbackLifetime 0x5 false ch, runFaulted := t.runFaulted } t ch.toNat
            ∧ t.chan ch.toNat = { c with phase := .faulted, cb := false, req := false, donePend := false }))

/-- 42_status.md R140: in every phase. -/
def Obligations.ClrovrExecutes : Prop :=
  ∀ (s : State) (ch : Chn) (pay : BitVec 24),
    (s.numChannels ≤ ch.toNat → ∃ t, exec (.clrovr ch pay) s = .next t ∧ RecordsOnly s t .badChannel 0x6 ch)
    ∧ (ch.toNat < s.numChannels → pay ≠ 0 →
        ∃ t, exec (.clrovr ch pay) s = .next t ∧ RecordsOnly s t .reservedBits 0x6 ch)
    ∧ (ch.toNat < s.numChannels →
        ∃ t, exec (.clrovr ch 0) s = .next t ∧ OnlyChannel s t ch.toNat
          ∧ t.chan ch.toNat = { s.chan ch.toNat with ovr := 0 })

/-- 42_status.md R141. -/
def Obligations.AckerrExecutes : Prop :=
  (∀ s, exec (.ackerr 0 0) s = .next { s with err := 0 })
  ∧ ∀ (ch : Chn) (pay : BitVec 24) (s : State), ch ≠ 0 ∨ pay ≠ 0 →
      ∃ t, exec (.ackerr ch pay) s = .next t ∧ RecordsOnly s t .reservedBits 0x7 ch

/-- 42_status.md R142: the phase stays, and the completion is withdrawn whether or not a callback is bound. -/
def Obligations.AckdoneExecutes : Prop :=
  ∀ (s : State) (ch : Chn) (pay : BitVec 24),
    (s.numChannels ≤ ch.toNat → ∃ t, exec (.ackdone ch pay) s = .next t ∧ RecordsOnly s t .badChannel 0x8 ch)
    ∧ (ch.toNat < s.numChannels → pay ≠ 0 →
        ∃ t, exec (.ackdone ch pay) s = .next t ∧ RecordsOnly s t .reservedBits 0x8 ch)
    ∧ (ch.toNat < s.numChannels →
        ∃ t, exec (.ackdone ch 0) s = .next t ∧ OnlyChannel s t ch.toNat
          ∧ t.chan ch.toNat = { s.chan ch.toNat with donePend := false })

/-- 30_encoding.md R83, 60_exceptions.md R205: every word with OP 0x9 to 0xF records ILLEGAL_OP with its OP and CH as
written, whatever the payload, and changes nothing else; so for each of the seven constructors. -/
def Obligations.IllegalOpcodesRecorded : Prop :=
  (∀ (s : State) (w : Word), 0x9 ≤ (w.extractLsb' 28 4).toNat →
    ∃ t, exec (decodeCommand w) s = .next t
      ∧ RecordsOnly s t .illegalOp (w.extractLsb' 28 4) (w.extractLsb' 24 4))
  ∧ ∀ (s : State) (ch : Chn) (pay : BitVec 24) (op : BitVec 4) (i : Instr),
    (op, i) ∈ [(0x9#4, Instr.illegal9 ch pay), (0xA#4, .illegalA ch pay), (0xB#4, .illegalB ch pay),
      (0xC#4, .illegalC ch pay), (0xD#4, .illegalD ch pay), (0xE#4, .illegalE ch pay), (0xF#4, .illegalF ch pay)] →
    ∃ t, exec i s = .next t ∧ RecordsOnly s t .illegalOp op ch

/-- 60_exceptions.md R201, R202: the fields of a fresh record, with the number of every error code; with a record held, only
LOST is set; ACKERR and reset clear it. -/
def Obligations.FirstErrorIsKept : Prop :=
  (∀ (e : Word) (code : ErrCode) (op : BitVec 4) (eng : Bool) (ch : Chn),
    let r := recordErr e code op eng ch
    (e.getLsbD 31 = false →
      (r.extractLsb' 0 4).toNat = (match code with
        | .illegalOp => 0x1 | .badChannel => 0x2 | .reservedBits => 0x3 | .unsupportedValue => 0x4 | .notConfigured => 0x5
        | .busy => 0x6 | .stopped => 0x7 | .channelFaulted => 0x8 | .countRange => 0x9 | .callbackLifetime => 0xA
        | .busError => 0xB)
        ∧ r.extractLsb' 4 4 = op ∧ r.getLsbD 8 = eng ∧ r.extractLsb' 9 3 = 0
        ∧ r.extractLsb' 12 4 = ch ∧ r.extractLsb' 16 14 = 0 ∧ r.getLsbD 30 = false ∧ r.getLsbD 31 = true)
    ∧ (e.getLsbD 31 = true → ∀ j, r.getLsbD j = (if j = 30 then true else e.getLsbD j)))
  ∧ (∀ s : State, exec (.ackerr 0 0) s = .next { s with err := 0 })
  ∧ ∀ s : State, ∃ t, takeEvent .reset s = .next t ∧ t.err = 0

/-- 60_exceptions.md R203, R206: a command either leaves `ERR` as it was, or changes nothing but `ERR`, or is an UNBIND of an
active channel. -/
def Obligations.FailingCommandWritesOnlyErr : Prop :=
  ∀ (i : Instr) (w : Word) (s t : State), encodeCommand i = some w → exec i s = .next t →
    t.err = s.err ∨ t = { s with err := t.err }
      ∨ ∃ ch, i = .unbind ch 0 ∧ ((s.chan ch.toNat).phase = .armed ∨ (s.chan ch.toNat).phase = .inProgress)

/-- 30_encoding.md R80, 60_exceptions.md R221: a command writes no field of a channel other than the one its CH field
names. -/
def Obligations.CommandWritesOnlyItsChannel : Prop :=
  ∀ (i : Instr) (w : Word) (s t : State), encodeCommand i = some w → exec i s = .next t →
    t.numChannels = s.numChannels ∧ ∀ d, d ≠ (w.extractLsb' 24 4).toNat → t.chan d = s.chan d

/-- The frame of every instruction: no memory byte, no byte in or out, no parameter, no event to come; and only the writes
of the staging registers (ARM's among them) change those. -/
def Obligations.InstructionFrame : Prop :=
  ∀ (i : Instr) (s t : State), exec i s = .next t →
    t.params = s.params ∧ t.numChannels = s.numChannels ∧ t.mem = s.mem ∧ (∀ a, t.mem.load a = s.mem.load a)
    ∧ t.rxStream = s.rxStream ∧ t.rxReads = s.rxReads ∧ t.out = s.out ∧ t.agenda = s.agenda ∧ t.drawn = s.drawn
    ∧ t.resets = s.resets
    ∧ (t.hostResp = s.hostResp ∨ (∃ off, i = .rd off) ∨ (∃ a, i = .hostAccessFault a) ∨ ∃ off v, i = .wrReadOnly off v)
    ∧ ((t.argSrc = s.argSrc ∧ t.argSrcWritten = s.argSrcWritten ∧ t.argDst = s.argDst ∧ t.argDstWritten = s.argDstWritten)
        ∨ (∃ v, i = .wrArgSrc v) ∨ (∃ v, i = .wrArgDst v) ∨ (∃ ch src dst nm1, i = .arm ch src dst nm1)
        ∨ ∃ off v, i = .wrReadOnly off v)

/-! ### Host register access and pseudo-instructions -/

/-- 42_status.md R144: a write to a mapped read-only offset has no effect and raises nothing. -/
def Obligations.ReadOnlyWriteIgnored : Prop :=
  ∀ (s : State) (off : BitVec 12) (v : Word),
    off = 0x00C ∨ off = 0x010 ∨ off = 0x014
      ∨ (∃ c k, c < s.numChannels ∧ k ≤ 8 ∧ off.toNat = 0x100 + 0x40 * c + 4 * k) →
    decodeAccess s.numChannels (wrAccess off v) = .wrReadOnly off v ∧ exec (.wrReadOnly off v) s = .next s

/-- 10_state.md R31, 42_status.md R147, R148: what a read of each mapped offset returns, and that nothing else changes. -/
def Obligations.ReadReturnsRegister : Prop :=
  ∀ (s : State) (off : BitVec 12),
    let reads := fun v => exec (.rd off) s = .next { s with hostResp := .word v }
    (off = 0x000 → reads 0)
    ∧ (off = 0x004 → reads s.argSrc)
    ∧ (off = 0x008 → reads s.argDst)
    ∧ (off = 0x00C → reads s.err)
    ∧ (off = 0x010 → ∃ v, reads v ∧ (s.numChannels ≤ 16 →
        ∀ j, v.getLsbD j = (decide (j < s.numChannels) && (s.chan j).donePend)))
    ∧ (off = 0x014 → ∃ v, reads v ∧ v.extractLsb' 0 5 = BitVec.ofNat 5 s.numChannels ∧ v.extractLsb' 5 11 = 0
        ∧ v.extractLsb' 16 16 = BitVec.ofNat 16 (s.params.maxUnits - 1))
    ∧ ∀ c, c < s.numChannels →
      (off.toNat = 0x100 + 0x40 * c + 0x00 → reads (s.chan c).statusWord)
      ∧ (off.toNat = 0x100 + 0x40 * c + 0x04 → reads (s.chan c).desc0.word)
      ∧ (off.toNat = 0x100 + 0x40 * c + 0x08 → reads (s.chan c).desc1.word)
      ∧ (off.toNat = 0x100 + 0x40 * c + 0x0C → reads (s.chan c).src)
      ∧ (off.toNat = 0x100 + 0x40 * c + 0x10 → reads (s.chan c).dst)
      ∧ (off.toNat = 0x100 + 0x40 * c + 0x14 → ∃ v, reads v ∧ v.extractLsb' 0 16 = (s.chan c).nm1
          ∧ v.getLsbD 16 = (s.chan c).burst ∧ v.getLsbD 17 = (s.chan c).slot ∧ v.extractLsb' 18 14 = 0)
      ∧ (off.toNat = 0x100 + 0x40 * c + 0x18 → ∃ v, reads v ∧ v.toNat = (s.chan c).remain.toNat)
      ∧ (off.toNat = 0x100 + 0x40 * c + 0x1C → reads (s.chan c).ovr)
      ∧ (off.toNat = 0x100 + 0x40 * c + 0x20 → reads (s.chan c).done)

/-- 10_state.md R32, R24: the fields of `CH_STATUS[c]`. -/
def Obligations.StatusWordFields : Prop :=
  ∀ c : Channel,
    (c.statusWord.extractLsb' 0 3).toNat = (match c.phase with
      | .unarmed => 0 | .armed => 1 | .inProgress => 2 | .completed => 3 | .stopped => 4 | .faulted => 5)
    ∧ c.statusWord.getLsbD 3 = c.req ∧ c.statusWord.getLsbD 4 = c.donePend ∧ c.statusWord.getLsbD 5 = c.cfg
    ∧ c.statusWord.getLsbD 6 = c.desc0.valid ∧ c.statusWord.getLsbD 7 = c.desc1.valid
    ∧ c.statusWord.getLsbD 8 = c.prio ∧ c.statusWord.getLsbD 9 = c.ie ∧ c.statusWord.getLsbD 10 = c.cb
    ∧ c.statusWord.getLsbD 11 = false ∧ c.statusWord.extractLsb' 12 8 = c.trig ∧ c.statusWord.extractLsb' 20 12 = 0

/-- 10_state.md R33: the fields of `CH_DESC[c]` and `CH_ADESC[c]`. -/
def Obligations.DescWordFields : Prop :=
  ∀ d : Desc,
    d.word.getLsbD 0 = false ∧ d.word.getLsbD 1 = d.sinc ∧ d.word.getLsbD 2 = d.dinc ∧ d.word.getLsbD 3 = false
    ∧ d.word.extractLsb' 4 2 = d.size ∧ d.word.extractLsb' 6 2 = 0 ∧ d.word.extractLsb' 8 4 = d.arb
    ∧ d.word.extractLsb' 12 3 = d.prot ∧ d.word.extractLsb' 15 17 = 0

/-- 60_exceptions.md R214: HOST_ACCESS_FAULT changes no engine state; the run is marked (R213). -/
def Obligations.HostAccessFaultKeepsEngine : Prop :=
  ∀ (a : HostAccess) (s : State), ∃ t, exec (.hostAccessFault a) s = .next t
    ∧ t.chans = s.chans ∧ t.argSrc = s.argSrc ∧ t.argDst = s.argDst ∧ t.err = s.err ∧ t.mem = s.mem ∧ t.irq = s.irq
    ∧ t.hostResp = .accessFault a.off s.params.hostFaultResponse ∧ t.runFaulted = true

/-- 30_encoding.md R95: a pseudo-instruction is its expansion: running its accesses as the next events does what `exec` of
it does. -/
def Obligations.PseudoInstructionExpands : Prop :=
  (∀ (s : State) (ch : Chn) (src dst : Word) (nm1 : BitVec 16),
    Sys2Proof.core.run 3 (s.setAgenda ((encode (.arm ch src dst nm1)).map Event.host ++ s.agenda))
      = exec (.arm ch src dst nm1) s)
  ∧ ∀ s : State, Sys2Proof.core.run 1 (s.setAgenda ((encode .initeng).map Event.host ++ s.agenda)) = exec .initeng s

/-- 30_encoding.md R95, 41_activation.md R122: ARM of a configured channel arms it with the addresses it names, both staging
registers hold them, and nothing else changes; INITENG clears `ERR` and nothing else. That no other host write comes between
ARM's three accesses (70_reset_and_hazards.md R249) is log entry 12; that the registers then count as written is log entry
24. A failing ARM is covered by `Obligations.PseudoInstructionExpands` with `Obligations.ActbExecutes`. -/
def Obligations.ArmArmsAndInitengClears : Prop :=
  (∀ (s : State) (ch : Chn) (src dst : Word) (nm1 : BitVec 16),
    ch.toNat < s.numChannels → (s.chan ch.toNat).phase = .unarmed ∨ (s.chan ch.toNat).phase = .completed →
    nm1.toNat < s.params.maxUnits → (s.chan ch.toNat).cfg = true → (s.chan ch.toNat).desc0.valid = true →
    ∃ t, exec (.arm ch src dst nm1) s = .next t
      ∧ OnlyChannel { s with argSrc := src, argDst := dst, argSrcWritten := true, argDstWritten := true } t ch.toNat
      ∧ t.chan ch.toNat = { s.chan ch.toNat with
          src := src, dst := dst, nm1 := nm1, burst := false, slot := false,
          remain := BitVec.ofNat 17 (nm1.toNat + 1), req := false, donePend := false, phase := .armed })
  ∧ ∀ s, exec .initeng s = .next { s with err := 0 }

/-! ### Triggers, grants, re-arms -/

/-- 43_engine.md R161, R163, R164: one trigger reaches every bound channel; each takes it or counts it as loss, saturating;
nothing else changes. -/
def Obligations.TriggerTakenOrCounted : Prop :=
  ∀ (s : State) (code : BitVec 8), code ≠ 0 → code ∈ s.params.triggerSet →
    ∃ t, takeEvent (.trigger code) s = .next t ∧ t = { s with chans := t.chans } ∧ t.numChannels = s.numChannels
      ∧ ∀ c, c < s.numChannels →
        ((s.chan c).cfg = false ∨ (s.chan c).trig ≠ code → t.chan c = s.chan c)
        ∧ ((s.chan c).cfg = true → (s.chan c).trig = code →
            (((s.chan c).phase = .armed ∨ (s.chan c).phase = .inProgress) → (s.chan c).req = false →
              t.chan c = { s.chan c with req := true })
            ∧ (((s.chan c).phase ≠ .armed ∧ (s.chan c).phase ≠ .inProgress) ∨ (s.chan c).req = true →
              t.chan c = { s.chan c with ovr := BitVec.ofNat 32 (min ((s.chan c).ovr.toNat + 1) (2 ^ 32 - 1)) }))

/-- 43_engine.md R160, R162: no event `Trigger(0)` exists, nor one of a code outside TRIGGER_SET; a trigger no channel is
bound to changes nothing. -/
def Obligations.UnboundTriggerChangesNothing : Prop :=
  ∀ (s : State) (code : BitVec 8),
    code = 0 ∨ code ∉ s.params.triggerSet ∨ (∀ c, c < s.numChannels → (s.chan c).cfg = false ∨ (s.chan c).trig ≠ code) →
    takeEvent (.trigger code) s = .next s

/-- 20_memory.md R68, 10_state.md R27: the addresses of unit `k`, wrapping at 2^32. -/
def Obligations.UnitAddresses : Prop :=
  ∀ (c : Channel) (k : Nat), k ≤ c.nm1.toNat → c.remain.toNat + k = c.nm1.toNat + 1 →
    c.srcAddr.toNat = (c.src.toNat + if c.desc0.sinc then k else 0) % 2 ^ 32
    ∧ c.dstAddr.toNat = (c.dst.toNat + if c.desc0.dinc then k else 0) % 2 ^ 32

/-- 43_engine.md R165, R175 with log entry 7: a grant has an effect exactly where the channel has a pending request and is of
high priority or no pending request is; a re-arm exactly where a completion is pending and a callback is bound. -/
def Obligations.EngineStepsOnlyWhenEnabled : Prop :=
  ∀ (s : State) (c : Nat), c < s.numChannels →
    (takeEvent (.grant c) s ≠ .next s ↔
      (s.chan c).req = true ∧ ((s.chan c).prio = true
        ∨ ∀ d, d < s.numChannels → (s.chan d).req = true → (s.chan d).prio = false))
    ∧ (takeEvent (.rearm c) s ≠ .next s ↔ (s.chan c).donePend = true ∧ (s.chan c).cb = true)

/-- 43_engine.md R166, R168, R169, R170, 20_memory.md R62, R63, R67: an enabled grant whose bytes MEM_MAP admits. -/
def Obligations.GrantMovesOneUnit : Prop :=
  ∀ (s : State) (c : Nat), c < s.numChannels → s.grantEnabled c = true →
    let ch := s.chan c
    let sa := ch.srcAddr
    let da := ch.dstAddr
    let v := if sa = s.params.rxDataAddr then s.rxByte s.rxReads else s.mem.load sa
    readable s.params sa = true → writable s.params da = true →
    ∃ t, takeEvent (.grant c) s = .next t
      ∧ t = { s with chans := t.chans, mem := t.mem, out := t.out, rxReads := t.rxReads }
      ∧ t.numChannels = s.numChannels ∧ (∀ d, d ≠ c → t.chan d = s.chan d)
      ∧ t.rxReads = s.rxReads + (if sa = s.params.rxDataAddr then 1 else 0)
      ∧ t.out = (if da = s.params.txDataAddr then s.out ++ [v] else s.out)
      ∧ t.mem.load da = v ∧ (∀ a, a ≠ da → t.mem.load a = s.mem.load a)
      ∧ (ch.remain ≠ 1 → t.chan c = { ch with req := false, remain := ch.remain - 1, phase := .inProgress })
      ∧ (ch.remain = 1 → t.chan c = { ch with
          req := false, remain := 0, phase := .completed, done := ch.done + 1,
          donePend := if ch.ie then true else ch.donePend })

/-- 43_engine.md R170, 60_exceptions.md R211: a unit whose source is not readable, and one whose destination is not
writable; in the second case the byte read has been consumed. That this marks the run is `Obligations.RunIsMarked`. -/
def Obligations.BusErrorFaultsChannel : Prop :=
  ∀ (s : State) (c : Nat), c < s.numChannels → s.grantEnabled c = true →
    let sa := (s.chan c).srcAddr
    readable s.params sa = false ∨ writable s.params (s.chan c).dstAddr = false →
    ∃ t, takeEvent (.grant c) s = .next t
      ∧ OnlyChannel { s with
          rxReads := s.rxReads + (if readable s.params sa = true ∧ sa = s.params.rxDataAddr then 1 else 0)
          err := recordErr s.err .busError 0x0 true (BitVec.ofNat 4 c)
          runFaulted := t.runFaulted } t c
      ∧ t.chan c = { s.chan c with phase := .faulted, req := false }

/-- 60_exceptions.md R213 with log entries 10 and 24: the run stays marked; a channel that becomes FAULTED marks it; a valid
ACTB marks it exactly if a staging register was never written since reset; and a staging register counts as written from
the host's write on, until reset. -/
def Obligations.RunIsMarked : Prop :=
  (∀ s t : State, step s = .next t → s.runFaulted = true → t.runFaulted = true)
  ∧ (∀ (s t : State) (c : Nat), step s = .next t → c < s.numChannels →
      (s.chan c).phase ≠ .faulted → (t.chan c).phase = .faulted → t.runFaulted = true)
  ∧ (∀ (s t : State) (ch : Chn) (nm1 : BitVec 16), exec (.actb ch false false 0 nm1) s = .next t →
      (s.chan ch.toNat).phase ≠ .armed → (t.chan ch.toNat).phase = .armed →
      (t.runFaulted = true ↔ s.runFaulted = true ∨ s.argSrcWritten = false ∨ s.argDstWritten = false))
  ∧ ∀ (s t : State) (v : Word),
      (exec (.wrArgSrc v) s = .next t → t.argSrcWritten = true ∧ t.argDstWritten = s.argDstWritten)
      ∧ (exec (.wrArgDst v) s = .next t → t.argDstWritten = true ∧ t.argSrcWritten = s.argSrcWritten)
      ∧ (takeEvent .reset s = .next t → t.argSrcWritten = false ∧ t.argDstWritten = false)

/-- 43_engine.md R175: what a re-arm writes where it is enabled, and that nothing else changes. -/
def Obligations.RearmRestartsBurst : Prop :=
  ∀ (s : State) (c : Nat), c < s.numChannels → (s.chan c).donePend = true → (s.chan c).cb = true →
    ∃ t, takeEvent (.rearm c) s = .next t ∧ OnlyChannel s t c
      ∧ t.chan c = { s.chan c with
          donePend := false, remain := BitVec.ofNat 17 ((s.chan c).nm1.toNat + 1), req := false, phase := .armed }

/-- 43_engine.md R180, R181, 60_exceptions.md R216: `irq` is raised exactly by a pending completion with no callback; in a
state of the invariant, a channel with its interrupt disabled is never re-armed and never raises it. -/
def Obligations.CompletionRouting : Prop :=
  ∀ s : State,
    (s.irq = true ↔ ∃ c, c < s.numChannels ∧ (s.chan c).donePend = true ∧ (s.chan c).cb = false)
    ∧ (Inv s → ∀ c, c < s.numChannels → (s.chan c).ie = false →
        (s.chan c).donePend = false ∧ takeEvent (.rearm c) s = .next s)

/-! ### Reset and memory -/

/-- 10_state.md R35, and `ERR` by R36: the machine at reset, for any parameters and number of channels. -/
def Obligations.ResetValues : Prop :=
  ∀ (p : Params) (n c : Nat),
    let s := State.initial p n
    s.numChannels = n ∧ s.err = 0
    ∧ (c < n →
        (s.chan c).phase = .unarmed ∧ (s.chan c).req = false ∧ (s.chan c).donePend = false ∧ (s.chan c).cfg = false
        ∧ (s.chan c).prio = false ∧ (s.chan c).ie = false ∧ (s.chan c).cb = false ∧ (s.chan c).trig = 0
        ∧ (s.chan c).desc0 = ⟨false, false, false, 0, 0, 0⟩ ∧ (s.chan c).desc1 = ⟨false, false, false, 0, 0, 0⟩
        ∧ (s.chan c).src = 0 ∧ (s.chan c).dst = 0 ∧ (s.chan c).nm1 = 0 ∧ (s.chan c).burst = false
        ∧ (s.chan c).slot = false ∧ (s.chan c).remain = 0 ∧ (s.chan c).ovr = 0 ∧ (s.chan c).done = 0)

/-- 70_reset_and_hazards.md R240, R241: reset from any state: every channel as after `State.initial`, `ERR` and `irq` 0,
memory untouched. The received-byte index restarts (60_exceptions.md R228; log entry 5), and the bytes sent stay (log entry
16). -/
def Obligations.ResetClearsEngine : Prop :=
  ∀ s : State, ∃ t, takeEvent .reset s = .next t
    ∧ t.numChannels = s.numChannels ∧ t.params = s.params
    ∧ (∀ c, t.chan c = (State.initial s.params s.numChannels).chan c)
    ∧ t.err = 0 ∧ t.irq = false ∧ t.mem = s.mem ∧ t.rxReads = 0 ∧ t.out = s.out

/-- 70_reset_and_hazards.md R242: after reset no step of the engine's own has an effect, nor has any trigger. -/
def Obligations.ResetEngineIsIdle : Prop :=
  ∀ (s t : State) (c : Nat) (code : BitVec 8), takeEvent .reset s = .next t →
    takeEvent (.grant c) t = .next t ∧ takeEvent (.rearm c) t = .next t ∧ takeEvent (.trigger code) t = .next t

/-- 20_memory.md R62, R67, R72, R76, 42_status.md R145 with log entries 9, 11, 13: in the engine's block a byte store and a byte
load are HostAccessFaults. Anywhere else a store changes that byte only, and at TXDATA sends it too, and a load then gives
it; a load of RXDATA gives the next received byte and consumes it. -/
def Obligations.HostStoreThenLoad : Prop :=
  ∀ (s : State) (a : Word) (v : Byte),
    (∀ off, blockOffset s.params a = some off →
      let faulted := { s with hostResp := .accessFault off s.params.hostFaultResponse, runFaulted := true }
      takeEvent (.hostStore a v) s = .next faulted ∧ takeEvent (.hostLoad a) s = .next faulted)
    ∧ (blockOffset s.params a = none →
        takeEvent (.hostLoad a) s = .next { s with
          hostResp := .byte (if a = s.params.rxDataAddr then s.rxByte s.rxReads else s.mem.load a)
          rxReads := s.rxReads + (if a = s.params.rxDataAddr then 1 else 0) }
        ∧ ∃ t, takeEvent (.hostStore a v) s = .next t
          ∧ t = { s with mem := t.mem, out := if a = s.params.txDataAddr then s.out ++ [v] else s.out }
          ∧ (∀ b, b ≠ a → t.mem.load b = s.mem.load b)
          ∧ (a ≠ s.params.rxDataAddr → takeEvent (.hostLoad a) t = .next { t with hostResp := .byte v }))

/-- Log entry 4: in the canonical form, memories that hold the same written bytes are the same data. -/
def Obligations.MemoryFormIsCanonical : Prop :=
  ∀ m m' : Memory, m.wf → m'.wf → (∀ k, Memory.get? m k = Memory.get? m' k) → m = m'

/-! ### The whole machine -/

/-- 10_state.md R26 with log entry 21: every step keeps the invariant, whatever event it takes. -/
def Obligations.StepKeepsInvariant : Prop :=
  ∀ s t : State, Inv s → step s = .next t → Inv t

/-- The invariant holds at reset, for every choice of the OPEN parameters that 00_scope.md R7 and 20_memory.md R61 allow;
the parameters of the examples are such a choice. -/
def Obligations.ResetMeetsInvariant : Prop :=
  (∀ (p : Params) (n : Nat), ParamsOk p → 2 ≤ n → n ≤ 16 → Inv (State.initial p n)) ∧ Inv State.reset

/-- 41_activation.md R120, R132: in a state of the invariant, a step other than reset changes a channel's phase only along
the transition table. -/
def Obligations.PhasesFollowTransitionTable : Prop :=
  ∀ s t : State, Inv s → step s = .next t → s.headEvent ≠ .reset → ∀ c, c < s.numChannels →
    (t.chan c).phase = (s.chan c).phase ∨ ((s.chan c).phase, (t.chan c).phase) ∈ phaseChanges

/-- 41_activation.md R127, 60_exceptions.md R212: in a state of the invariant, STOPPED and FAULTED are left only by reset,
and such a channel is never granted and never re-armed. -/
def Obligations.TerminalPhasesStay : Prop :=
  (∀ (s t : State) (c : Nat), step s = .next t → s.headEvent ≠ .reset → Inv s → c < s.numChannels →
    ((s.chan c).phase = .stopped → (t.chan c).phase = .stopped)
    ∧ ((s.chan c).phase = .faulted → (t.chan c).phase = .faulted))
  ∧ ∀ (s : State) (c : Nat), Inv s → c < s.numChannels →
    (s.chan c).phase = .stopped ∨ (s.chan c).phase = .faulted →
    takeEvent (.grant c) s = .next s ∧ takeEvent (.rearm c) s = .next s

/-- 10_state.md R23, 43_engine.md R176, property T2 of 95_test_vectors.md: only an ACTB on the channel, or reset, changes its
burst fields, so successive bursts have the same addresses and unit count. -/
def Obligations.BurstFieldsKeptUntilActivation : Prop :=
  ∀ (s t : State) (c : Nat), step s = .next t → s.headEvent ≠ .reset → c < s.numChannels →
    ((t.chan c).src = (s.chan c).src ∧ (t.chan c).dst = (s.chan c).dst ∧ (t.chan c).nm1 = (s.chan c).nm1
      ∧ (t.chan c).burst = (s.chan c).burst ∧ (t.chan c).slot = (s.chan c).slot)
    ∨ ∃ (a : HostAccess) (v : Word) (ch : Chn) (nm1 : BitVec 16),
        s.headEvent = .host a ∧ decodeAccess s.numChannels a = .wrCmd v
        ∧ decodeCommand v = .actb ch false false 0 nm1 ∧ ch.toNat = c

/-- 10_state.md R21, R22: only CFGCH on the channel writes PRIO, IE, TRIG and CFG, only CFGCH and UNBIND write CB, only
CFGDESC writes the descriptors, reset apart. -/
def Obligations.ConfigurationKeptByOtherSteps : Prop :=
  ∀ (s t : State) (c : Nat), step s = .next t → s.headEvent ≠ .reset → c < s.numChannels →
    let wrote := fun i => ∃ (a : HostAccess) (v : Word),
      s.headEvent = .host a ∧ decodeAccess s.numChannels a = .wrCmd v ∧ decodeCommand v = i
    (((t.chan c).prio = (s.chan c).prio ∧ (t.chan c).ie = (s.chan c).ie ∧ (t.chan c).trig = (s.chan c).trig
        ∧ (t.chan c).cfg = (s.chan c).cfg)
      ∨ ∃ ch prio ie cb trig, ch.toNat = c ∧ wrote (.cfgch ch prio ie cb false trig 0))
    ∧ ((t.chan c).cb = (s.chan c).cb ∨ (∃ ch prio ie cb trig, ch.toNat = c ∧ wrote (.cfgch ch prio ie cb false trig 0))
      ∨ ∃ ch, ch.toNat = c ∧ wrote (.unbind ch 0))
    ∧ (((t.chan c).desc0 = (s.chan c).desc0 ∧ (t.chan c).desc1 = (s.chan c).desc1)
      ∨ ∃ ch slot sinc dinc arb prot, ch.toNat = c ∧ wrote (.cfgdesc ch slot sinc dinc false 0 0 arb prot 0))

/-- 10_state.md R25, 43_engine.md R168, R161, 42_status.md R140: DONE counts exactly the completions; OVR moves only by a
trigger that is not taken or by CLROVR; reset apart. -/
def Obligations.CountersCountEvents : Prop :=
  ∀ (s t : State) (c : Nat), Inv s → step s = .next t → s.headEvent ≠ .reset → c < s.numChannels →
    (t.chan c).done = (s.chan c).done
      + (if (t.chan c).phase = .completed ∧ (s.chan c).phase ≠ .completed then 1 else 0)
    ∧ ((t.chan c).ovr = (s.chan c).ovr
      ∨ ((t.chan c).ovr = 0 ∧ ∃ (a : HostAccess) (v : Word), s.headEvent = .host a
          ∧ decodeAccess s.numChannels a = .wrCmd v ∧ ∃ ch, decodeCommand v = .clrovr ch 0 ∧ ch.toNat = c)
      ∨ ((s.chan c).ovr.toNat + 1 = (t.chan c).ovr.toNat ∧ s.headEvent = .trigger (s.chan c).trig))

/-- 20_memory.md R62, R63, R67, 42_status.md R143 to R147: of all steps, only a unit and a host store (one byte a step, log
entry 13) change memory, each at most the one byte it stores to; only these, at TXDATA, add to the bytes sent, which reset
leaves (log entry 16); and the parameters never change. -/
def Obligations.MemoryChangesOnlyByStores : Prop :=
  ∀ s t : State, step s = .next t →
    t.params = s.params ∧ t.numChannels = s.numChannels
    ∧ ((∀ a, t.mem.load a = s.mem.load a)
      ∨ (∃ c, s.headEvent = .grant c ∧ s.grantEnabled c = true
          ∧ ∀ a, a ≠ (s.chan c).dstAddr → t.mem.load a = s.mem.load a)
      ∨ ∃ b v, s.headEvent = .hostStore b v ∧ ∀ a, a ≠ b → t.mem.load a = s.mem.load a)
    ∧ (t.out = s.out
      ∨ (∃ c v, s.headEvent = .grant c ∧ (s.chan c).dstAddr = s.params.txDataAddr ∧ t.out = s.out ++ [v])
      ∨ ∃ v, s.headEvent = .hostStore s.params.txDataAddr v ∧ t.out = s.out ++ [v])

/-- 43_engine.md R166, R167, R168 and property T1 of 95_test_vectors.md: a receive burst, each unit on its own trigger,
stores the received bytes in order, writes nothing else, loses nothing and completes once. -/
def Obligations.ReceiveBurstFillsBuffer : Prop :=
  ∀ (s : State) (c : Nat) (code : BitVec 8),
    Inv s → c < s.numChannels → code ≠ 0 →
    let ch := s.chan c
    let units := ch.nm1.toNat + 1
    ch.phase = .armed → ch.req = false → ch.trig = code →
    ch.src = s.params.rxDataAddr → ch.desc0.sinc = false → ch.desc0.dinc = true →
    (∀ k, k < units → writable s.params (ch.dst + BitVec.ofNat 32 k) = true
      ∧ ch.dst + BitVec.ofNat 32 k ≠ s.params.txDataAddr) →
    (∀ d, d < s.numChannels → d ≠ c → (s.chan d).req = false ∧ ((s.chan d).cfg = false ∨ (s.chan d).trig ≠ code)) →
    let t := State.units code c units s
    (t.chan c).phase = .completed ∧ (t.chan c).remain = 0 ∧ (t.chan c).done = ch.done + 1 ∧ (t.chan c).ovr = ch.ovr
    ∧ t.rxReads = s.rxReads + units ∧ t.out = s.out
    ∧ (∀ k, k < units → t.mem.load (ch.dst + BitVec.ofNat 32 k) = s.rxByte (s.rxReads + k))
    ∧ (∀ a, (∀ k, k < units → a ≠ ch.dst + BitVec.ofNat 32 k) → t.mem.load a = s.mem.load a)
    ∧ ∀ d, d ≠ c → t.chan d = s.chan d

/-- 43_engine.md R166, R167, R168 and Scenario 1 of 95_test_vectors.md: a transmit burst, each unit on its own trigger, sends
the buffer's bytes in order, leaves every byte of memory but TXDATA's alone, loses nothing and completes once. -/
def Obligations.TransmitBurstSendsBuffer : Prop :=
  ∀ (s : State) (c : Nat) (code : BitVec 8),
    Inv s → c < s.numChannels → code ≠ 0 →
    let ch := s.chan c
    let units := ch.nm1.toNat + 1
    ch.phase = .armed → ch.req = false → ch.trig = code →
    ch.dst = s.params.txDataAddr → ch.desc0.sinc = true → ch.desc0.dinc = false →
    (∀ k, k < units → readable s.params (ch.src + BitVec.ofNat 32 k) = true
      ∧ ch.src + BitVec.ofNat 32 k ≠ s.params.rxDataAddr) →
    (∀ d, d < s.numChannels → d ≠ c → (s.chan d).req = false ∧ ((s.chan d).cfg = false ∨ (s.chan d).trig ≠ code)) →
    let t := State.units code c units s
    (t.chan c).phase = .completed ∧ (t.chan c).remain = 0 ∧ (t.chan c).done = ch.done + 1 ∧ (t.chan c).ovr = ch.ovr
    ∧ t.out = s.out ++ (List.range units).map (fun k => s.mem.load (ch.src + BitVec.ofNat 32 k))
    ∧ t.rxReads = s.rxReads ∧ (∀ a, a ≠ s.params.txDataAddr → t.mem.load a = s.mem.load a)
    ∧ ∀ d, d ≠ c → t.chan d = s.chan d

/-- 60_exceptions.md R230, 70_reset_and_hazards.md R251, property T3 of 95_test_vectors.md: in the lockstep environment a byte
time loses no trigger, leaves no request pending, and takes each of the two channels through exactly one unit: on to the
next, or re-armed after the last, or FAULTED where the unit's source is not readable or its destination not writable. A
re-arm that is not enabled is passed over (log entry 7). -/
def Obligations.LockstepByteTimeLosesNothing : Prop :=
  ∀ (s : State) (r x : Nat) (es : List Event),
    Inv s → r < s.numChannels → x < s.numChannels → r ≠ x → s.agenda = lockstepByteTime r x ++ es →
    (∀ c, c < s.numChannels → (s.chan c).req = false) →
    (∀ c, c = r ∨ c = x → ((s.chan c).phase = .armed ∨ (s.chan c).phase = .inProgress)
      ∧ (s.chan c).ie = true ∧ (s.chan c).cb = true) →
    (s.chan r).trig = 0x01 → (s.chan x).trig = 0x02 →
    (∀ c, c < s.numChannels → c ≠ r → c ≠ x →
      (s.chan c).cfg = false ∨ ((s.chan c).trig ≠ 0x01 ∧ (s.chan c).trig ≠ 0x02)) →
    ∃ t, Sys2Proof.core.run 6 s = .next t ∧ t.agenda = es
      ∧ (∀ c, c < s.numChannels → (t.chan c).ovr = (s.chan c).ovr ∧ (t.chan c).req = false)
      ∧ (∀ c, c ≠ r → c ≠ x → t.chan c = s.chan c)
      ∧ ∀ c, c = r ∨ c = x →
          let ch := s.chan c
          let admitted := readable s.params ch.srcAddr = true ∧ writable s.params ch.dstAddr = true
          (¬ admitted → t.chan c = { ch with phase := .faulted })
          ∧ (admitted → ch.remain ≠ 1 → t.chan c = { ch with remain := ch.remain - 1, phase := .inProgress })
          ∧ (admitted → ch.remain = 1 → t.chan c = { ch with
              remain := BitVec.ofNat 17 (ch.nm1.toNat + 1), phase := .armed, done := ch.done + 1 })
end

