-- ==== Sys2Proof/Laws/Memory.lean ====
section
/-! SUPPORT. Memory: read after write, and that every operation keeps the canonical form. -/

namespace Sys2Proof.Machine

/-- A read of the address just written gives the byte written. -/
@[simp] theorem Memory.get?_put_same (m : Memory) (k : Nat) (v : Byte) : Memory.get? (Memory.put m k v) k = some v := by
  induction m with
  | nil => simp [Memory.put, Memory.get?]
  | cons x m ih =>
    obtain ⟨k', v'⟩ := x
    by_cases h1 : k < k'
    · simp [Memory.put, Memory.get?, h1]
    · by_cases h2 : k = k'
      · simp [Memory.put, Memory.get?, h2]
      · simp [Memory.put, Memory.get?, h1, h2, ih]

/-- A write leaves every other address. -/
@[simp] theorem Memory.get?_put_ne (m : Memory) (k j : Nat) (v : Byte) (h : j ≠ k) :
    Memory.get? (Memory.put m k v) j = Memory.get? m j := by
  induction m with
  | nil => simp [Memory.put, Memory.get?, h]
  | cons x m ih =>
    obtain ⟨k', v'⟩ := x
    by_cases h1 : k < k'
    · simp [Memory.put, Memory.get?, h1, h]
    · by_cases h2 : k = k'
      · subst h2; simp [Memory.put, Memory.get?, h]
      · by_cases h3 : j = k' <;> simp [Memory.put, Memory.get?, h1, h2, h3, ih]

/-- What a written memory lists: the new cell, or a cell it listed before. -/
theorem Memory.mem_put (m : Memory) (k : Nat) (v : Byte) (x : Host.Cell) (h : x ∈ Memory.put m k v) :
    x = (k, v) ∨ x ∈ m := by
  induction m with
  | nil => simpa [Memory.put] using h
  | cons y m ih =>
    obtain ⟨k', v'⟩ := y
    by_cases h1 : k < k'
    · simpa [Memory.put, h1] using h
    · by_cases h2 : k = k'
      · subst h2
        simp only [Memory.put, Nat.lt_irrefl, if_true, if_false, List.mem_cons] at h ⊢
        exact h.imp_right .inr
      · simp only [Memory.put, h1, h2, if_false, List.mem_cons] at h ⊢
        rcases h with h | h
        · exact .inr (.inl h)
        · rcases ih h with h | h
          · exact .inl h
          · exact .inr (.inr h)

/-- A write inside the address space keeps the canonical form. -/
theorem Memory.put_wf (m : Memory) (k : Nat) (v : Byte) (hk : k < 2 ^ 32) (h : Memory.wf m) :
    Memory.wf (Memory.put m k v) := by
  refine ⟨?_, fun x hx => ?_⟩
  · replace h := h.1
    induction m with
    | nil => simp [Memory.put]
    | cons y m ih =>
      obtain ⟨k', v'⟩ := y
      rw [List.pairwise_cons] at h
      by_cases h1 : k < k'
      · simp only [Memory.put, h1, if_true, List.pairwise_cons]
        refine ⟨fun z hz => ?_, h⟩
        rcases List.mem_cons.1 hz with rfl | hz
        · exact h1
        · exact Nat.lt_trans h1 (h.1 z hz)
      · by_cases h2 : k = k'
        · subst h2
          simpa [Memory.put] using h
        · simp only [Memory.put, h1, h2, if_false, List.pairwise_cons]
          refine ⟨fun z hz => ?_, ih h.2⟩
          rcases Memory.mem_put m k v z hz with rfl | hz
          · exact Nat.lt_of_le_of_ne (Nat.le_of_not_lt h1) (Ne.symm h2)
          · exact h.1 z hz
  · rcases Memory.mem_put m k v x hx with rfl | hx
    · exact hk
    · exact h.2 x hx

/-- A store keeps the canonical form. -/
theorem Memory.store_wf (m : Memory) (a : Word) (v : Byte) (h : Memory.wf m) : Memory.wf (m.store a v) :=
  Memory.put_wf m a.toNat v a.isLt h

/-- The memory at reset has the canonical form. -/
theorem State.reset_mem_wf : State.reset.mem.wf :=
  ⟨.nil, fun _ h => nomatch h⟩

/-- A load of the address just stored to gives the byte stored. -/
@[simp] theorem Memory.load_store_same (m : Memory) (a : Word) (v : Byte) : (m.store a v).load a = v := by
  simp [Memory.load, Memory.store]

/-- A store leaves every other address. -/
@[simp] theorem Memory.load_store_ne (m : Memory) (a b : Word) (v : Byte) (h : b ≠ a) :
    (m.store a v).load b = m.load b := by
  have : b.toNat ≠ a.toNat := fun e => h (BitVec.eq_of_toNat_eq e)
  simp [Memory.load, Memory.store, this]

end Sys2Proof.Machine
end

