-- ==== Sys2Proof/Laws/State.lean ====
section
/-! SUPPORT. One lemma per field per update of the state, so that no later proof unfolds a record update; then what the
updates do to a channel read back. -/

namespace Sys2Proof.Machine

/-! ### setChan -/

@[simp] theorem State.setChan_params (s : State) (c : Nat) (x : Channel) : (s.setChan c x).params = s.params := rfl
@[simp] theorem State.setChan_chans (s : State) (c : Nat) (x : Channel) : (s.setChan c x).chans = s.chans.set c x := rfl
@[simp] theorem State.setChan_argSrc (s : State) (c : Nat) (x : Channel) : (s.setChan c x).argSrc = s.argSrc := rfl
@[simp] theorem State.setChan_argDst (s : State) (c : Nat) (x : Channel) : (s.setChan c x).argDst = s.argDst := rfl
@[simp] theorem State.setChan_err (s : State) (c : Nat) (x : Channel) : (s.setChan c x).err = s.err := rfl
@[simp] theorem State.setChan_argSrcWritten (s : State) (c : Nat) (x : Channel) : (s.setChan c x).argSrcWritten = s.argSrcWritten := rfl
@[simp] theorem State.setChan_argDstWritten (s : State) (c : Nat) (x : Channel) : (s.setChan c x).argDstWritten = s.argDstWritten := rfl
@[simp] theorem State.setChan_mem (s : State) (c : Nat) (x : Channel) : (s.setChan c x).mem = s.mem := rfl
@[simp] theorem State.setChan_rxStream (s : State) (c : Nat) (x : Channel) : (s.setChan c x).rxStream = s.rxStream := rfl
@[simp] theorem State.setChan_rxReads (s : State) (c : Nat) (x : Channel) : (s.setChan c x).rxReads = s.rxReads := rfl
@[simp] theorem State.setChan_out (s : State) (c : Nat) (x : Channel) : (s.setChan c x).out = s.out := rfl
@[simp] theorem State.setChan_runFaulted (s : State) (c : Nat) (x : Channel) : (s.setChan c x).runFaulted = s.runFaulted := rfl
@[simp] theorem State.setChan_hostResp (s : State) (c : Nat) (x : Channel) : (s.setChan c x).hostResp = s.hostResp := rfl
@[simp] theorem State.setChan_agenda (s : State) (c : Nat) (x : Channel) : (s.setChan c x).agenda = s.agenda := rfl
@[simp] theorem State.setChan_drawn (s : State) (c : Nat) (x : Channel) : (s.setChan c x).drawn = s.drawn := rfl
@[simp] theorem State.setChan_resets (s : State) (c : Nat) (x : Channel) : (s.setChan c x).resets = s.resets := rfl

/-! ### mapChans -/

@[simp] theorem State.mapChans_params (s : State) (f : Channel → Channel) : (s.mapChans f).params = s.params := rfl
@[simp] theorem State.mapChans_chans (s : State) (f : Channel → Channel) : (s.mapChans f).chans = s.chans.map f := rfl
@[simp] theorem State.mapChans_argSrc (s : State) (f : Channel → Channel) : (s.mapChans f).argSrc = s.argSrc := rfl
@[simp] theorem State.mapChans_argDst (s : State) (f : Channel → Channel) : (s.mapChans f).argDst = s.argDst := rfl
@[simp] theorem State.mapChans_err (s : State) (f : Channel → Channel) : (s.mapChans f).err = s.err := rfl
@[simp] theorem State.mapChans_argSrcWritten (s : State) (f : Channel → Channel) : (s.mapChans f).argSrcWritten = s.argSrcWritten := rfl
@[simp] theorem State.mapChans_argDstWritten (s : State) (f : Channel → Channel) : (s.mapChans f).argDstWritten = s.argDstWritten := rfl
@[simp] theorem State.mapChans_mem (s : State) (f : Channel → Channel) : (s.mapChans f).mem = s.mem := rfl
@[simp] theorem State.mapChans_rxStream (s : State) (f : Channel → Channel) : (s.mapChans f).rxStream = s.rxStream := rfl
@[simp] theorem State.mapChans_rxReads (s : State) (f : Channel → Channel) : (s.mapChans f).rxReads = s.rxReads := rfl
@[simp] theorem State.mapChans_out (s : State) (f : Channel → Channel) : (s.mapChans f).out = s.out := rfl
@[simp] theorem State.mapChans_runFaulted (s : State) (f : Channel → Channel) : (s.mapChans f).runFaulted = s.runFaulted := rfl
@[simp] theorem State.mapChans_hostResp (s : State) (f : Channel → Channel) : (s.mapChans f).hostResp = s.hostResp := rfl
@[simp] theorem State.mapChans_agenda (s : State) (f : Channel → Channel) : (s.mapChans f).agenda = s.agenda := rfl
@[simp] theorem State.mapChans_drawn (s : State) (f : Channel → Channel) : (s.mapChans f).drawn = s.drawn := rfl
@[simp] theorem State.mapChans_resets (s : State) (f : Channel → Channel) : (s.mapChans f).resets = s.resets := rfl

/-! ### setArgSrc -/

@[simp] theorem State.setArgSrc_params (s : State) (v : Word) : (s.setArgSrc v).params = s.params := rfl
@[simp] theorem State.setArgSrc_chans (s : State) (v : Word) : (s.setArgSrc v).chans = s.chans := rfl
@[simp] theorem State.setArgSrc_argSrc (s : State) (v : Word) : (s.setArgSrc v).argSrc = v := rfl
@[simp] theorem State.setArgSrc_argDst (s : State) (v : Word) : (s.setArgSrc v).argDst = s.argDst := rfl
@[simp] theorem State.setArgSrc_err (s : State) (v : Word) : (s.setArgSrc v).err = s.err := rfl
@[simp] theorem State.setArgSrc_argSrcWritten (s : State) (v : Word) : (s.setArgSrc v).argSrcWritten = true := rfl
@[simp] theorem State.setArgSrc_argDstWritten (s : State) (v : Word) : (s.setArgSrc v).argDstWritten = s.argDstWritten := rfl
@[simp] theorem State.setArgSrc_mem (s : State) (v : Word) : (s.setArgSrc v).mem = s.mem := rfl
@[simp] theorem State.setArgSrc_rxStream (s : State) (v : Word) : (s.setArgSrc v).rxStream = s.rxStream := rfl
@[simp] theorem State.setArgSrc_rxReads (s : State) (v : Word) : (s.setArgSrc v).rxReads = s.rxReads := rfl
@[simp] theorem State.setArgSrc_out (s : State) (v : Word) : (s.setArgSrc v).out = s.out := rfl
@[simp] theorem State.setArgSrc_runFaulted (s : State) (v : Word) : (s.setArgSrc v).runFaulted = s.runFaulted := rfl
@[simp] theorem State.setArgSrc_hostResp (s : State) (v : Word) : (s.setArgSrc v).hostResp = s.hostResp := rfl
@[simp] theorem State.setArgSrc_agenda (s : State) (v : Word) : (s.setArgSrc v).agenda = s.agenda := rfl
@[simp] theorem State.setArgSrc_drawn (s : State) (v : Word) : (s.setArgSrc v).drawn = s.drawn := rfl
@[simp] theorem State.setArgSrc_resets (s : State) (v : Word) : (s.setArgSrc v).resets = s.resets := rfl

/-! ### setArgDst -/

@[simp] theorem State.setArgDst_params (s : State) (v : Word) : (s.setArgDst v).params = s.params := rfl
@[simp] theorem State.setArgDst_chans (s : State) (v : Word) : (s.setArgDst v).chans = s.chans := rfl
@[simp] theorem State.setArgDst_argSrc (s : State) (v : Word) : (s.setArgDst v).argSrc = s.argSrc := rfl
@[simp] theorem State.setArgDst_argDst (s : State) (v : Word) : (s.setArgDst v).argDst = v := rfl
@[simp] theorem State.setArgDst_err (s : State) (v : Word) : (s.setArgDst v).err = s.err := rfl
@[simp] theorem State.setArgDst_argSrcWritten (s : State) (v : Word) : (s.setArgDst v).argSrcWritten = s.argSrcWritten := rfl
@[simp] theorem State.setArgDst_argDstWritten (s : State) (v : Word) : (s.setArgDst v).argDstWritten = true := rfl
@[simp] theorem State.setArgDst_mem (s : State) (v : Word) : (s.setArgDst v).mem = s.mem := rfl
@[simp] theorem State.setArgDst_rxStream (s : State) (v : Word) : (s.setArgDst v).rxStream = s.rxStream := rfl
@[simp] theorem State.setArgDst_rxReads (s : State) (v : Word) : (s.setArgDst v).rxReads = s.rxReads := rfl
@[simp] theorem State.setArgDst_out (s : State) (v : Word) : (s.setArgDst v).out = s.out := rfl
@[simp] theorem State.setArgDst_runFaulted (s : State) (v : Word) : (s.setArgDst v).runFaulted = s.runFaulted := rfl
@[simp] theorem State.setArgDst_hostResp (s : State) (v : Word) : (s.setArgDst v).hostResp = s.hostResp := rfl
@[simp] theorem State.setArgDst_agenda (s : State) (v : Word) : (s.setArgDst v).agenda = s.agenda := rfl
@[simp] theorem State.setArgDst_drawn (s : State) (v : Word) : (s.setArgDst v).drawn = s.drawn := rfl
@[simp] theorem State.setArgDst_resets (s : State) (v : Word) : (s.setArgDst v).resets = s.resets := rfl

/-! ### setErr -/

@[simp] theorem State.setErr_params (s : State) (v : Word) : (s.setErr v).params = s.params := rfl
@[simp] theorem State.setErr_chans (s : State) (v : Word) : (s.setErr v).chans = s.chans := rfl
@[simp] theorem State.setErr_argSrc (s : State) (v : Word) : (s.setErr v).argSrc = s.argSrc := rfl
@[simp] theorem State.setErr_argDst (s : State) (v : Word) : (s.setErr v).argDst = s.argDst := rfl
@[simp] theorem State.setErr_err (s : State) (v : Word) : (s.setErr v).err = v := rfl
@[simp] theorem State.setErr_argSrcWritten (s : State) (v : Word) : (s.setErr v).argSrcWritten = s.argSrcWritten := rfl
@[simp] theorem State.setErr_argDstWritten (s : State) (v : Word) : (s.setErr v).argDstWritten = s.argDstWritten := rfl
@[simp] theorem State.setErr_mem (s : State) (v : Word) : (s.setErr v).mem = s.mem := rfl
@[simp] theorem State.setErr_rxStream (s : State) (v : Word) : (s.setErr v).rxStream = s.rxStream := rfl
@[simp] theorem State.setErr_rxReads (s : State) (v : Word) : (s.setErr v).rxReads = s.rxReads := rfl
@[simp] theorem State.setErr_out (s : State) (v : Word) : (s.setErr v).out = s.out := rfl
@[simp] theorem State.setErr_runFaulted (s : State) (v : Word) : (s.setErr v).runFaulted = s.runFaulted := rfl
@[simp] theorem State.setErr_hostResp (s : State) (v : Word) : (s.setErr v).hostResp = s.hostResp := rfl
@[simp] theorem State.setErr_agenda (s : State) (v : Word) : (s.setErr v).agenda = s.agenda := rfl
@[simp] theorem State.setErr_drawn (s : State) (v : Word) : (s.setErr v).drawn = s.drawn := rfl
@[simp] theorem State.setErr_resets (s : State) (v : Word) : (s.setErr v).resets = s.resets := rfl

/-! ### setMem -/

@[simp] theorem State.setMem_params (s : State) (m : Memory) : (s.setMem m).params = s.params := rfl
@[simp] theorem State.setMem_chans (s : State) (m : Memory) : (s.setMem m).chans = s.chans := rfl
@[simp] theorem State.setMem_argSrc (s : State) (m : Memory) : (s.setMem m).argSrc = s.argSrc := rfl
@[simp] theorem State.setMem_argDst (s : State) (m : Memory) : (s.setMem m).argDst = s.argDst := rfl
@[simp] theorem State.setMem_err (s : State) (m : Memory) : (s.setMem m).err = s.err := rfl
@[simp] theorem State.setMem_argSrcWritten (s : State) (m : Memory) : (s.setMem m).argSrcWritten = s.argSrcWritten := rfl
@[simp] theorem State.setMem_argDstWritten (s : State) (m : Memory) : (s.setMem m).argDstWritten = s.argDstWritten := rfl
@[simp] theorem State.setMem_mem (s : State) (m : Memory) : (s.setMem m).mem = m := rfl
@[simp] theorem State.setMem_rxStream (s : State) (m : Memory) : (s.setMem m).rxStream = s.rxStream := rfl
@[simp] theorem State.setMem_rxReads (s : State) (m : Memory) : (s.setMem m).rxReads = s.rxReads := rfl
@[simp] theorem State.setMem_out (s : State) (m : Memory) : (s.setMem m).out = s.out := rfl
@[simp] theorem State.setMem_runFaulted (s : State) (m : Memory) : (s.setMem m).runFaulted = s.runFaulted := rfl
@[simp] theorem State.setMem_hostResp (s : State) (m : Memory) : (s.setMem m).hostResp = s.hostResp := rfl
@[simp] theorem State.setMem_agenda (s : State) (m : Memory) : (s.setMem m).agenda = s.agenda := rfl
@[simp] theorem State.setMem_drawn (s : State) (m : Memory) : (s.setMem m).drawn = s.drawn := rfl
@[simp] theorem State.setMem_resets (s : State) (m : Memory) : (s.setMem m).resets = s.resets := rfl

/-! ### countRx -/

@[simp] theorem State.countRx_params (s : State) : s.countRx.params = s.params := rfl
@[simp] theorem State.countRx_chans (s : State) : s.countRx.chans = s.chans := rfl
@[simp] theorem State.countRx_argSrc (s : State) : s.countRx.argSrc = s.argSrc := rfl
@[simp] theorem State.countRx_argDst (s : State) : s.countRx.argDst = s.argDst := rfl
@[simp] theorem State.countRx_err (s : State) : s.countRx.err = s.err := rfl
@[simp] theorem State.countRx_argSrcWritten (s : State) : s.countRx.argSrcWritten = s.argSrcWritten := rfl
@[simp] theorem State.countRx_argDstWritten (s : State) : s.countRx.argDstWritten = s.argDstWritten := rfl
@[simp] theorem State.countRx_mem (s : State) : s.countRx.mem = s.mem := rfl
@[simp] theorem State.countRx_rxStream (s : State) : s.countRx.rxStream = s.rxStream := rfl
@[simp] theorem State.countRx_rxReads (s : State) : s.countRx.rxReads = s.rxReads + 1 := rfl
@[simp] theorem State.countRx_out (s : State) : s.countRx.out = s.out := rfl
@[simp] theorem State.countRx_runFaulted (s : State) : s.countRx.runFaulted = s.runFaulted := rfl
@[simp] theorem State.countRx_hostResp (s : State) : s.countRx.hostResp = s.hostResp := rfl
@[simp] theorem State.countRx_agenda (s : State) : s.countRx.agenda = s.agenda := rfl
@[simp] theorem State.countRx_drawn (s : State) : s.countRx.drawn = s.drawn := rfl
@[simp] theorem State.countRx_resets (s : State) : s.countRx.resets = s.resets := rfl

/-! ### pushOut -/

@[simp] theorem State.pushOut_params (s : State) (v : Byte) : (s.pushOut v).params = s.params := rfl
@[simp] theorem State.pushOut_chans (s : State) (v : Byte) : (s.pushOut v).chans = s.chans := rfl
@[simp] theorem State.pushOut_argSrc (s : State) (v : Byte) : (s.pushOut v).argSrc = s.argSrc := rfl
@[simp] theorem State.pushOut_argDst (s : State) (v : Byte) : (s.pushOut v).argDst = s.argDst := rfl
@[simp] theorem State.pushOut_err (s : State) (v : Byte) : (s.pushOut v).err = s.err := rfl
@[simp] theorem State.pushOut_argSrcWritten (s : State) (v : Byte) : (s.pushOut v).argSrcWritten = s.argSrcWritten := rfl
@[simp] theorem State.pushOut_argDstWritten (s : State) (v : Byte) : (s.pushOut v).argDstWritten = s.argDstWritten := rfl
@[simp] theorem State.pushOut_mem (s : State) (v : Byte) : (s.pushOut v).mem = s.mem := rfl
@[simp] theorem State.pushOut_rxStream (s : State) (v : Byte) : (s.pushOut v).rxStream = s.rxStream := rfl
@[simp] theorem State.pushOut_rxReads (s : State) (v : Byte) : (s.pushOut v).rxReads = s.rxReads := rfl
@[simp] theorem State.pushOut_out (s : State) (v : Byte) : (s.pushOut v).out = s.out ++ [v] := rfl
@[simp] theorem State.pushOut_runFaulted (s : State) (v : Byte) : (s.pushOut v).runFaulted = s.runFaulted := rfl
@[simp] theorem State.pushOut_hostResp (s : State) (v : Byte) : (s.pushOut v).hostResp = s.hostResp := rfl
@[simp] theorem State.pushOut_agenda (s : State) (v : Byte) : (s.pushOut v).agenda = s.agenda := rfl
@[simp] theorem State.pushOut_drawn (s : State) (v : Byte) : (s.pushOut v).drawn = s.drawn := rfl
@[simp] theorem State.pushOut_resets (s : State) (v : Byte) : (s.pushOut v).resets = s.resets := rfl

/-! ### setHostResp -/

@[simp] theorem State.setHostResp_params (s : State) (r : HostResp) : (s.setHostResp r).params = s.params := rfl
@[simp] theorem State.setHostResp_chans (s : State) (r : HostResp) : (s.setHostResp r).chans = s.chans := rfl
@[simp] theorem State.setHostResp_argSrc (s : State) (r : HostResp) : (s.setHostResp r).argSrc = s.argSrc := rfl
@[simp] theorem State.setHostResp_argDst (s : State) (r : HostResp) : (s.setHostResp r).argDst = s.argDst := rfl
@[simp] theorem State.setHostResp_err (s : State) (r : HostResp) : (s.setHostResp r).err = s.err := rfl
@[simp] theorem State.setHostResp_argSrcWritten (s : State) (r : HostResp) : (s.setHostResp r).argSrcWritten = s.argSrcWritten := rfl
@[simp] theorem State.setHostResp_argDstWritten (s : State) (r : HostResp) : (s.setHostResp r).argDstWritten = s.argDstWritten := rfl
@[simp] theorem State.setHostResp_mem (s : State) (r : HostResp) : (s.setHostResp r).mem = s.mem := rfl
@[simp] theorem State.setHostResp_rxStream (s : State) (r : HostResp) : (s.setHostResp r).rxStream = s.rxStream := rfl
@[simp] theorem State.setHostResp_rxReads (s : State) (r : HostResp) : (s.setHostResp r).rxReads = s.rxReads := rfl
@[simp] theorem State.setHostResp_out (s : State) (r : HostResp) : (s.setHostResp r).out = s.out := rfl
@[simp] theorem State.setHostResp_runFaulted (s : State) (r : HostResp) : (s.setHostResp r).runFaulted = s.runFaulted := rfl
@[simp] theorem State.setHostResp_hostResp (s : State) (r : HostResp) : (s.setHostResp r).hostResp = r := rfl
@[simp] theorem State.setHostResp_agenda (s : State) (r : HostResp) : (s.setHostResp r).agenda = s.agenda := rfl
@[simp] theorem State.setHostResp_drawn (s : State) (r : HostResp) : (s.setHostResp r).drawn = s.drawn := rfl
@[simp] theorem State.setHostResp_resets (s : State) (r : HostResp) : (s.setHostResp r).resets = s.resets := rfl

/-! ### markFaultedIf -/

@[simp] theorem State.markFaultedIf_params (s : State) (b : Bool) : (s.markFaultedIf b).params = s.params := rfl
@[simp] theorem State.markFaultedIf_chans (s : State) (b : Bool) : (s.markFaultedIf b).chans = s.chans := rfl
@[simp] theorem State.markFaultedIf_argSrc (s : State) (b : Bool) : (s.markFaultedIf b).argSrc = s.argSrc := rfl
@[simp] theorem State.markFaultedIf_argDst (s : State) (b : Bool) : (s.markFaultedIf b).argDst = s.argDst := rfl
@[simp] theorem State.markFaultedIf_err (s : State) (b : Bool) : (s.markFaultedIf b).err = s.err := rfl
@[simp] theorem State.markFaultedIf_argSrcWritten (s : State) (b : Bool) : (s.markFaultedIf b).argSrcWritten = s.argSrcWritten := rfl
@[simp] theorem State.markFaultedIf_argDstWritten (s : State) (b : Bool) : (s.markFaultedIf b).argDstWritten = s.argDstWritten := rfl
@[simp] theorem State.markFaultedIf_mem (s : State) (b : Bool) : (s.markFaultedIf b).mem = s.mem := rfl
@[simp] theorem State.markFaultedIf_rxStream (s : State) (b : Bool) : (s.markFaultedIf b).rxStream = s.rxStream := rfl
@[simp] theorem State.markFaultedIf_rxReads (s : State) (b : Bool) : (s.markFaultedIf b).rxReads = s.rxReads := rfl
@[simp] theorem State.markFaultedIf_out (s : State) (b : Bool) : (s.markFaultedIf b).out = s.out := rfl
@[simp] theorem State.markFaultedIf_runFaulted (s : State) (b : Bool) : (s.markFaultedIf b).runFaulted = (s.runFaulted || b) := rfl
@[simp] theorem State.markFaultedIf_hostResp (s : State) (b : Bool) : (s.markFaultedIf b).hostResp = s.hostResp := rfl
@[simp] theorem State.markFaultedIf_agenda (s : State) (b : Bool) : (s.markFaultedIf b).agenda = s.agenda := rfl
@[simp] theorem State.markFaultedIf_drawn (s : State) (b : Bool) : (s.markFaultedIf b).drawn = s.drawn := rfl
@[simp] theorem State.markFaultedIf_resets (s : State) (b : Bool) : (s.markFaultedIf b).resets = s.resets := rfl

/-! ### setAgenda -/

@[simp] theorem State.setAgenda_params (s : State) (es : List Event) : (s.setAgenda es).params = s.params := rfl
@[simp] theorem State.setAgenda_chans (s : State) (es : List Event) : (s.setAgenda es).chans = s.chans := rfl
@[simp] theorem State.setAgenda_argSrc (s : State) (es : List Event) : (s.setAgenda es).argSrc = s.argSrc := rfl
@[simp] theorem State.setAgenda_argDst (s : State) (es : List Event) : (s.setAgenda es).argDst = s.argDst := rfl
@[simp] theorem State.setAgenda_err (s : State) (es : List Event) : (s.setAgenda es).err = s.err := rfl
@[simp] theorem State.setAgenda_argSrcWritten (s : State) (es : List Event) : (s.setAgenda es).argSrcWritten = s.argSrcWritten := rfl
@[simp] theorem State.setAgenda_argDstWritten (s : State) (es : List Event) : (s.setAgenda es).argDstWritten = s.argDstWritten := rfl
@[simp] theorem State.setAgenda_mem (s : State) (es : List Event) : (s.setAgenda es).mem = s.mem := rfl
@[simp] theorem State.setAgenda_rxStream (s : State) (es : List Event) : (s.setAgenda es).rxStream = s.rxStream := rfl
@[simp] theorem State.setAgenda_rxReads (s : State) (es : List Event) : (s.setAgenda es).rxReads = s.rxReads := rfl
@[simp] theorem State.setAgenda_out (s : State) (es : List Event) : (s.setAgenda es).out = s.out := rfl
@[simp] theorem State.setAgenda_runFaulted (s : State) (es : List Event) : (s.setAgenda es).runFaulted = s.runFaulted := rfl
@[simp] theorem State.setAgenda_hostResp (s : State) (es : List Event) : (s.setAgenda es).hostResp = s.hostResp := rfl
@[simp] theorem State.setAgenda_agenda (s : State) (es : List Event) : (s.setAgenda es).agenda = es := rfl
@[simp] theorem State.setAgenda_drawn (s : State) (es : List Event) : (s.setAgenda es).drawn = s.drawn := rfl
@[simp] theorem State.setAgenda_resets (s : State) (es : List Event) : (s.setAgenda es).resets = s.resets := rfl

/-! ### countDraw -/

@[simp] theorem State.countDraw_params (s : State) : s.countDraw.params = s.params := rfl
@[simp] theorem State.countDraw_chans (s : State) : s.countDraw.chans = s.chans := rfl
@[simp] theorem State.countDraw_argSrc (s : State) : s.countDraw.argSrc = s.argSrc := rfl
@[simp] theorem State.countDraw_argDst (s : State) : s.countDraw.argDst = s.argDst := rfl
@[simp] theorem State.countDraw_err (s : State) : s.countDraw.err = s.err := rfl
@[simp] theorem State.countDraw_argSrcWritten (s : State) : s.countDraw.argSrcWritten = s.argSrcWritten := rfl
@[simp] theorem State.countDraw_argDstWritten (s : State) : s.countDraw.argDstWritten = s.argDstWritten := rfl
@[simp] theorem State.countDraw_mem (s : State) : s.countDraw.mem = s.mem := rfl
@[simp] theorem State.countDraw_rxStream (s : State) : s.countDraw.rxStream = s.rxStream := rfl
@[simp] theorem State.countDraw_rxReads (s : State) : s.countDraw.rxReads = s.rxReads := rfl
@[simp] theorem State.countDraw_out (s : State) : s.countDraw.out = s.out := rfl
@[simp] theorem State.countDraw_runFaulted (s : State) : s.countDraw.runFaulted = s.runFaulted := rfl
@[simp] theorem State.countDraw_hostResp (s : State) : s.countDraw.hostResp = s.hostResp := rfl
@[simp] theorem State.countDraw_agenda (s : State) : s.countDraw.agenda = s.agenda := rfl
@[simp] theorem State.countDraw_drawn (s : State) : s.countDraw.drawn = s.drawn + 1 := rfl
@[simp] theorem State.countDraw_resets (s : State) : s.countDraw.resets = s.resets := rfl

/-! ### record -/

@[simp] theorem State.record_params (s : State) (code : ErrCode) (op : BitVec 4) (eng : Bool) (ch : Chn) : (s.record code op eng ch).params = s.params := rfl
@[simp] theorem State.record_chans (s : State) (code : ErrCode) (op : BitVec 4) (eng : Bool) (ch : Chn) : (s.record code op eng ch).chans = s.chans := rfl
@[simp] theorem State.record_argSrc (s : State) (code : ErrCode) (op : BitVec 4) (eng : Bool) (ch : Chn) : (s.record code op eng ch).argSrc = s.argSrc := rfl
@[simp] theorem State.record_argDst (s : State) (code : ErrCode) (op : BitVec 4) (eng : Bool) (ch : Chn) : (s.record code op eng ch).argDst = s.argDst := rfl
@[simp] theorem State.record_err (s : State) (code : ErrCode) (op : BitVec 4) (eng : Bool) (ch : Chn) : (s.record code op eng ch).err = recordErr s.err code op eng ch := rfl
@[simp] theorem State.record_argSrcWritten (s : State) (code : ErrCode) (op : BitVec 4) (eng : Bool) (ch : Chn) : (s.record code op eng ch).argSrcWritten = s.argSrcWritten := rfl
@[simp] theorem State.record_argDstWritten (s : State) (code : ErrCode) (op : BitVec 4) (eng : Bool) (ch : Chn) : (s.record code op eng ch).argDstWritten = s.argDstWritten := rfl
@[simp] theorem State.record_mem (s : State) (code : ErrCode) (op : BitVec 4) (eng : Bool) (ch : Chn) : (s.record code op eng ch).mem = s.mem := rfl
@[simp] theorem State.record_rxStream (s : State) (code : ErrCode) (op : BitVec 4) (eng : Bool) (ch : Chn) : (s.record code op eng ch).rxStream = s.rxStream := rfl
@[simp] theorem State.record_rxReads (s : State) (code : ErrCode) (op : BitVec 4) (eng : Bool) (ch : Chn) : (s.record code op eng ch).rxReads = s.rxReads := rfl
@[simp] theorem State.record_out (s : State) (code : ErrCode) (op : BitVec 4) (eng : Bool) (ch : Chn) : (s.record code op eng ch).out = s.out := rfl
@[simp] theorem State.record_runFaulted (s : State) (code : ErrCode) (op : BitVec 4) (eng : Bool) (ch : Chn) : (s.record code op eng ch).runFaulted = s.runFaulted := rfl
@[simp] theorem State.record_hostResp (s : State) (code : ErrCode) (op : BitVec 4) (eng : Bool) (ch : Chn) : (s.record code op eng ch).hostResp = s.hostResp := rfl
@[simp] theorem State.record_agenda (s : State) (code : ErrCode) (op : BitVec 4) (eng : Bool) (ch : Chn) : (s.record code op eng ch).agenda = s.agenda := rfl
@[simp] theorem State.record_drawn (s : State) (code : ErrCode) (op : BitVec 4) (eng : Bool) (ch : Chn) : (s.record code op eng ch).drawn = s.drawn := rfl
@[simp] theorem State.record_resets (s : State) (code : ErrCode) (op : BitVec 4) (eng : Bool) (ch : Chn) : (s.record code op eng ch).resets = s.resets := rfl

/-! ### resetStep -/

@[simp] theorem State.resetStep_params (s : State) : s.resetStep.params = s.params := rfl
@[simp] theorem State.resetStep_chans (s : State) : s.resetStep.chans = s.chans.map fun _ => Channel.reset := rfl
@[simp] theorem State.resetStep_argSrc (s : State) : s.resetStep.argSrc = Config.argSrcDraw (s.resets + 1) := rfl
@[simp] theorem State.resetStep_argDst (s : State) : s.resetStep.argDst = Config.argDstDraw (s.resets + 1) := rfl
@[simp] theorem State.resetStep_err (s : State) : s.resetStep.err = 0 := rfl
@[simp] theorem State.resetStep_argSrcWritten (s : State) : s.resetStep.argSrcWritten = false := rfl
@[simp] theorem State.resetStep_argDstWritten (s : State) : s.resetStep.argDstWritten = false := rfl
@[simp] theorem State.resetStep_mem (s : State) : s.resetStep.mem = s.mem := rfl
@[simp] theorem State.resetStep_rxStream (s : State) : s.resetStep.rxStream = [] := rfl
@[simp] theorem State.resetStep_rxReads (s : State) : s.resetStep.rxReads = 0 := rfl
@[simp] theorem State.resetStep_out (s : State) : s.resetStep.out = s.out := rfl
@[simp] theorem State.resetStep_runFaulted (s : State) : s.resetStep.runFaulted = s.runFaulted := rfl
@[simp] theorem State.resetStep_hostResp (s : State) : s.resetStep.hostResp = s.hostResp := rfl
@[simp] theorem State.resetStep_agenda (s : State) : s.resetStep.agenda = s.agenda := rfl
@[simp] theorem State.resetStep_drawn (s : State) : s.resetStep.drawn = s.drawn := rfl
@[simp] theorem State.resetStep_resets (s : State) : s.resetStep.resets = s.resets + 1 := rfl

/-! ### Channels read back -/

@[simp] theorem State.numChannels_setChan (s : State) (c : Nat) (x : Channel) : (s.setChan c x).numChannels = s.numChannels := by
  simp [State.numChannels]

@[simp] theorem State.numChannels_mapChans (s : State) (f : Channel → Channel) : (s.mapChans f).numChannels = s.numChannels := by
  simp [State.numChannels]

@[simp] theorem State.numChannels_resetStep (s : State) : s.resetStep.numChannels = s.numChannels := by
  simp [State.numChannels]

@[simp] theorem State.numChannels_setArgSrc (s : State) (v : Word) : (s.setArgSrc v).numChannels = s.numChannels := rfl
@[simp] theorem State.chan_setArgSrc (s : State) (v : Word) (d : Nat) : (s.setArgSrc v).chan d = s.chan d := rfl
@[simp] theorem State.numChannels_setArgDst (s : State) (v : Word) : (s.setArgDst v).numChannels = s.numChannels := rfl
@[simp] theorem State.chan_setArgDst (s : State) (v : Word) (d : Nat) : (s.setArgDst v).chan d = s.chan d := rfl
@[simp] theorem State.numChannels_setErr (s : State) (v : Word) : (s.setErr v).numChannels = s.numChannels := rfl
@[simp] theorem State.chan_setErr (s : State) (v : Word) (d : Nat) : (s.setErr v).chan d = s.chan d := rfl
@[simp] theorem State.numChannels_setMem (s : State) (m : Memory) : (s.setMem m).numChannels = s.numChannels := rfl
@[simp] theorem State.chan_setMem (s : State) (m : Memory) (d : Nat) : (s.setMem m).chan d = s.chan d := rfl
@[simp] theorem State.numChannels_countRx (s : State) : s.countRx.numChannels = s.numChannels := rfl
@[simp] theorem State.chan_countRx (s : State) (d : Nat) : s.countRx.chan d = s.chan d := rfl
@[simp] theorem State.numChannels_pushOut (s : State) (v : Byte) : (s.pushOut v).numChannels = s.numChannels := rfl
@[simp] theorem State.chan_pushOut (s : State) (v : Byte) (d : Nat) : (s.pushOut v).chan d = s.chan d := rfl
@[simp] theorem State.numChannels_setHostResp (s : State) (r : HostResp) : (s.setHostResp r).numChannels = s.numChannels := rfl
@[simp] theorem State.chan_setHostResp (s : State) (r : HostResp) (d : Nat) : (s.setHostResp r).chan d = s.chan d := rfl
@[simp] theorem State.numChannels_markFaultedIf (s : State) (b : Bool) : (s.markFaultedIf b).numChannels = s.numChannels := rfl
@[simp] theorem State.chan_markFaultedIf (s : State) (b : Bool) (d : Nat) : (s.markFaultedIf b).chan d = s.chan d := rfl
@[simp] theorem State.numChannels_setAgenda (s : State) (es : List Event) : (s.setAgenda es).numChannels = s.numChannels := rfl
@[simp] theorem State.chan_setAgenda (s : State) (es : List Event) (d : Nat) : (s.setAgenda es).chan d = s.chan d := rfl
@[simp] theorem State.numChannels_countDraw (s : State) : s.countDraw.numChannels = s.numChannels := rfl
@[simp] theorem State.chan_countDraw (s : State) (d : Nat) : s.countDraw.chan d = s.chan d := rfl
@[simp] theorem State.numChannels_record (s : State) (code : ErrCode) (op : BitVec 4) (eng : Bool) (ch : Chn) : (s.record code op eng ch).numChannels = s.numChannels := rfl
@[simp] theorem State.chan_record (s : State) (code : ErrCode) (op : BitVec 4) (eng : Bool) (ch : Chn) (d : Nat) : (s.record code op eng ch).chan d = s.chan d := rfl

/-- Reading back the channel just written. -/
@[simp] theorem State.chan_setChan_same (s : State) (c : Nat) (x : Channel) (h : c < s.numChannels) :
    (s.setChan c x).chan c = x := by
  simp only [State.numChannels] at h
  simp [State.chan, h]

/-- A write of channel `c` leaves every other channel. -/
@[simp] theorem State.chan_setChan_ne (s : State) (c d : Nat) (x : Channel) (h : d ≠ c) :
    (s.setChan c x).chan d = s.chan d := by
  simp [State.chan, List.getElem?_set_ne (Ne.symm h)]

/-- A channel number past the last channel reads as a channel at reset. -/
theorem State.chan_of_le (s : State) (c : Nat) (h : s.numChannels ≤ c) : s.chan c = Channel.reset := by
  simp only [State.numChannels] at h
  simp [State.chan, h]

/-- A step that applies `f` to every channel applies it to channel `c`. -/
@[simp] theorem State.chan_mapChans (s : State) (f : Channel → Channel) (c : Nat) (h : c < s.numChannels) :
    (s.mapChans f).chan c = f (s.chan c) := by
  simp only [State.numChannels] at h
  simp [State.chan, h]

/-- After reset every channel is at reset. -/
@[simp] theorem State.chan_resetStep (s : State) (c : Nat) : s.resetStep.chan c = Channel.reset := by
  simp only [State.chan, State.resetStep_chans, List.getElem?_map]
  cases s.chans[c]? <;> rfl

/-- A channel read by its number is one of the list. -/
theorem State.chan_mem (s : State) (c : Nat) (h : c < s.numChannels) : s.chan c ∈ s.chans := by
  simp only [State.numChannels] at h
  simp [State.chan, h]

/-- A channel of the list is read by some number. -/
theorem State.exists_chan_of_mem (s : State) (x : Channel) (h : x ∈ s.chans) :
    ∃ c, c < s.numChannels ∧ s.chan c = x := by
  obtain ⟨c, hc, rfl⟩ := List.getElem_of_mem h
  exact ⟨c, hc, by simp [State.chan, hc]⟩

/-- A write of channel `c` changes nothing but channel `c`. -/
theorem State.setChan_only (s : State) (c : Nat) (x : Channel) :
    (s.setChan c x).chans.length = s.chans.length ∧ ∀ d, d ≠ c → (s.setChan c x).chan d = s.chan d :=
  ⟨by simp, fun _ h => by simp [h]⟩

end Sys2Proof.Machine
end

