-- ==== Sys2Proof/Laws/Ops.lean ====
section
/-! SUPPORT. What each shared operation does, said once: the errors and faults, the engine's byte accesses, the updates of
one channel, the engine's steps case by case. -/

namespace Sys2Proof.Machine

/-! ### Errors and faults -/

/-- A command error answers a next state in which only `ERR` has changed. -/
theorem commandError_next (code : ErrCode) (op : BitVec 4) (ch : Chn) (s : State) :
    ∃ t, commandError code op ch s = .next t ∧ RecordsOnly s t code op ch :=
  ⟨_, rfl, rfl⟩

/-- With an error held, a record only sets LOST. -/
theorem recordErr_of_valid (e : Word) (code : ErrCode) (op : BitVec 4) (eng : Bool) (ch : Chn)
    (h : e.getLsbD 31 = true) : recordErr e code op eng ch = e ||| 0x40000000 :=
  if_pos h

/-- With none held, the record is written. -/
theorem recordErr_of_clear (e : Word) (code : ErrCode) (op : BitVec 4) (eng : Bool) (ch : Chn)
    (h : e.getLsbD 31 = false) : recordErr e code op eng ch = errWord code op eng ch :=
  if_neg (by rw [h]; exact Bool.false_ne_true)

/-- A HostAccessFault changes only what the host sees and the mark of the run. -/
theorem hostAccessFault_next (off : BitVec 12) (s : State) :
    hostAccessFault off s = .next { s with
      hostResp := .accessFault off s.params.hostFaultResponse, runFaulted := true } := by
  simp [hostAccessFault, State.setHostResp, State.markFaultedIf]

/-- A BusError writes the phase and the request of its channel, `ERR`, and the mark of the run. -/
theorem State.busError_eq (s : State) (c : Nat) :
    s.busError c = { s with
      chans := s.chans.set c { s.chan c with phase := .faulted, req := false }
      err := recordErr s.err .busError 0x0 true (BitVec.ofNat 4 c)
      runFaulted := true } := by
  simp [State.busError, State.record, State.setErr, State.setChan, State.markFaultedIf]

/-- A CallbackLifetimeViolation writes four fields of its channel, `ERR`, and the mark of the run. -/
theorem callbackLifetimeViolation_next (ch : Chn) (s : State) :
    callbackLifetimeViolation ch s = .next { s with
      chans := s.chans.set ch.toNat
        { s.chan ch.toNat with phase := .faulted, cb := false, req := false, donePend := false }
      err := recordErr s.err .callbackLifetime 0x5 false ch
      runFaulted := true } := by
  simp [callbackLifetimeViolation, State.record, State.setErr, State.setChan, State.markFaultedIf]

/-! ### Byte accesses -/

/-- A read of any address but RXDATA has no side effect. -/
@[simp] theorem State.afterRead_plain (s : State) (a : Word) (h : a ≠ s.params.rxDataAddr) : s.afterRead a = s := by
  simp [State.afterRead, h]

/-- A read of RXDATA consumes one byte. -/
@[simp] theorem State.afterRead_rx (s : State) : s.afterRead s.params.rxDataAddr = s.countRx := by
  simp [State.afterRead]

/-- Everything a read changes: the count of received bytes, by one, at RXDATA. -/
theorem State.afterRead_eq (s : State) (a : Word) :
    s.afterRead a = { s with rxReads := s.rxReads + if a = s.params.rxDataAddr then 1 else 0 } := by
  unfold State.afterRead
  split <;> rfl

/-- A read of RXDATA gives the next received byte. -/
@[simp] theorem State.readByte_rx (s : State) : s.readByte s.params.rxDataAddr = s.rxByte s.rxReads := by
  simp [State.readByte]

/-- A read of any other address gives the byte the memory holds. -/
@[simp] theorem State.readByte_plain (s : State) (a : Word) (h : a ≠ s.params.rxDataAddr) : s.readByte a = s.mem.load a := by
  simp [State.readByte, h]

/-- Everything a write changes: the byte in memory and, at TXDATA, the bytes sent. -/
theorem State.writeByte_eq (s : State) (a : Word) (v : Byte) :
    s.writeByte a v = { s with
      mem := s.mem.store a v
      out := if a = s.params.txDataAddr then s.out ++ [v] else s.out } := by
  unfold State.writeByte
  split <;> rfl

/-- A write of TXDATA is stored and sent. -/
@[simp] theorem State.writeByte_tx (s : State) (v : Byte) :
    s.writeByte s.params.txDataAddr v = (s.setMem (s.mem.store s.params.txDataAddr v)).pushOut v := by
  simp [State.writeByte]

/-- A write of any other address is a store. -/
@[simp] theorem State.writeByte_plain (s : State) (a : Word) (v : Byte) (h : a ≠ s.params.txDataAddr) :
    s.writeByte a v = s.setMem (s.mem.store a v) := by
  simp [State.writeByte, h]

/-! ### Updates of one channel -/

/-- A trigger of a code the channel is not bound to leaves it. -/
theorem Channel.trigger_unbound (t : BitVec 8) (c : Channel) (h : c.boundTo t = false) : c.trigger t = c := by
  simp [Channel.trigger, h]

/-- A trigger the channel can take. -/
theorem Channel.trigger_taken (t : BitVec 8) (c : Channel) (h : c.boundTo t = true) (ha : c.phase.active = true)
    (hr : c.req = false) : c.trigger t = { c with req := true } := by
  simp [Channel.trigger, h, ha, hr]

/-- A trigger the channel cannot take. -/
theorem Channel.trigger_lost (t : BitVec 8) (c : Channel) (h : c.boundTo t = true)
    (hl : c.phase.active = false ∨ c.req = true) : c.trigger t = { c with ovr := satSucc c.ovr } := by
  rcases hl with hl | hl <;> simp [Channel.trigger, h, hl]

/-- The last unit of a burst. -/
theorem Channel.afterUnit_last (c : Channel) (h : c.remain = 1) :
    c.afterUnit = { c with
      req := false, remain := 0, phase := .completed, done := c.done + 1, donePend := c.ie || c.donePend } := by
  simp [Channel.afterUnit, Channel.complete, h]

/-- Any other unit. -/
theorem Channel.afterUnit_more (c : Channel) (h : c.remain ≠ 1) :
    c.afterUnit = { c with req := false, remain := c.remain - 1, phase := .inProgress } := by
  have : c.remain - 1 ≠ 0 := fun e => h (by simpa [BitVec.sub_eq_iff_eq_add] using e)
  rw [Channel.afterUnit, if_neg this]

/-! ### The engine's steps -/

/-- Everything a unit can do: a bus error on the read, one on the write, or the transfer. -/
theorem State.unitStep_cases (s : State) (c : Nat) :
    (readable s.params (s.chan c).srcAddr = false ∧ s.unitStep c = s.busError c)
    ∨ (readable s.params (s.chan c).srcAddr = true ∧ writable s.params (s.chan c).dstAddr = false
        ∧ s.unitStep c = (s.afterRead (s.chan c).srcAddr).busError c)
    ∨ (readable s.params (s.chan c).srcAddr = true ∧ writable s.params (s.chan c).dstAddr = true
        ∧ s.unitStep c = ((s.afterRead (s.chan c).srcAddr).writeByte (s.chan c).dstAddr
            (s.readByte (s.chan c).srcAddr)).setChan c (s.chan c).afterUnit) := by
  by_cases hr : readable s.params (s.chan c).srcAddr = true
  · by_cases hw : writable s.params (s.chan c).dstAddr = true
    · exact .inr (.inr ⟨hr, hw, by simp [State.unitStep, hr, hw]⟩)
    · exact .inr (.inl ⟨hr, by simpa using hw, by simp [State.unitStep, hr, hw]⟩)
  · exact .inl ⟨by simpa using hr, by simp [State.unitStep, hr]⟩

/-- Everything a grant can do. -/
theorem State.grantStep_cases (s : State) (c : Nat) :
    (s.grantEnabled c = false ∧ s.grantStep c = s) ∨ (s.grantEnabled c = true ∧ s.grantStep c = s.unitStep c) := by
  by_cases h : s.grantEnabled c = true
  · exact .inr ⟨h, by simp [State.grantStep, h]⟩
  · exact .inl ⟨by simpa using h, by simp [State.grantStep, h]⟩

/-- Everything a re-arm can do. -/
theorem State.rearmStep_cases (s : State) (c : Nat) :
    (s.rearmEnabled c = false ∧ s.rearmStep c = s)
    ∨ (s.rearmEnabled c = true ∧ s.rearmStep c = s.setChan c (s.chan c).rearm) := by
  by_cases h : s.rearmEnabled c = true
  · exact .inr ⟨h, by simp [State.rearmStep, h]⟩
  · exact .inl ⟨by simpa using h, by simp [State.rearmStep, h]⟩

/-- Everything a trigger can do. -/
theorem State.triggerStep_cases (s : State) (t : BitVec 8) :
    (triggerCode s.params t = false ∧ s.triggerStep t = s)
    ∨ (triggerCode s.params t = true ∧ s.triggerStep t = s.mapChans (Channel.trigger t)) := by
  by_cases h : triggerCode s.params t = true
  · exact .inr ⟨h, by simp [State.triggerStep, h]⟩
  · exact .inl ⟨by simpa using h, by simp [State.triggerStep, h]⟩

/-- Everything a host store can do: a HostAccessFault in the engine's block, a write anywhere else. -/
theorem hostStoreStep_cases (a : Word) (v : Byte) (s : State) :
    (∃ off, blockOffset s.params a = some off ∧ hostStoreStep a v s = hostAccessFault off s)
    ∨ (blockOffset s.params a = none ∧ hostStoreStep a v s = .next (s.writeByte a v)) := by
  cases hb : blockOffset s.params a with
  | some off => exact .inl ⟨off, rfl, by simp [hostStoreStep, hb]⟩
  | none => exact .inr ⟨rfl, by simp [hostStoreStep, hb]⟩

/-- Everything a host load can do: a HostAccessFault in the engine's block, a read anywhere else. -/
theorem hostLoadStep_cases (a : Word) (s : State) :
    (∃ off, blockOffset s.params a = some off ∧ hostLoadStep a s = hostAccessFault off s)
    ∨ (blockOffset s.params a = none
        ∧ hostLoadStep a s = .next ((s.afterRead a).setHostResp (.byte (s.readByte a)))) := by
  cases hb : blockOffset s.params a with
  | some off => exact .inl ⟨off, rfl, by simp [hostLoadStep, hb]⟩
  | none => exact .inr ⟨rfl, by simp [hostLoadStep, hb]⟩

end Sys2Proof.Machine
end

