-- ==== Sys2Proof/Laws/Step.lean ====
section
/-! SUPPORT. Inversion: everything a command, an instruction and an event can do, said once. -/

namespace Sys2Proof.Machine

/-- What a command that answers `t` did, with the checks it passed. -/
inductive CommandEffect (s : State) : Instr → State → Prop where
  /-- A check failed: the error is recorded with the channel the instruction names. -/
  | error (i : Instr) (code : ErrCode) (op : BitVec 4) (ch : Chn) (hcode : code ≠ .busError) :
      CommandEffect s i (s.record code op false ch)
  | nop : CommandEffect s (.nop 0 0) s
  | cfgch (ch : Chn) (prio ie cb : Bool) (trig : BitVec 8) (hc : ch.toNat < s.numChannels)
      (hf : (s.chan ch.toNat).phase ≠ .faulted) (hs : (s.chan ch.toNat).phase ≠ .stopped)
      (ha : (s.chan ch.toNat).phase.active = false) (ht : trig ∈ s.params.triggerSet) :
      CommandEffect s (.cfgch ch prio ie cb false trig 0) (s.setChan ch.toNat { s.chan ch.toNat with
        prio := prio, ie := ie, cb := cb, trig := trig, cfg := true, donePend := (s.chan ch.toNat).donePend && ie })
  | cfgdesc (ch : Chn) (slot sinc dinc : Bool) (arb : BitVec 4) (prot : BitVec 3) (hc : ch.toNat < s.numChannels)
      (hf : (s.chan ch.toNat).phase ≠ .faulted) (hs : (s.chan ch.toNat).phase ≠ .stopped)
      (ha : (s.chan ch.toNat).phase.active = false) :
      CommandEffect s (.cfgdesc ch slot sinc dinc false 0 0 arb prot 0) (s.setChan ch.toNat
        (if slot then { s.chan ch.toNat with desc1 := ⟨true, sinc, dinc, 0, arb, prot⟩ }
          else { s.chan ch.toNat with desc0 := ⟨true, sinc, dinc, 0, arb, prot⟩ }))
  | actb (ch : Chn) (nm1 : BitVec 16) (hc : ch.toNat < s.numChannels)
      (hf : (s.chan ch.toNat).phase ≠ .faulted) (hs : (s.chan ch.toNat).phase ≠ .stopped)
      (ha : (s.chan ch.toNat).phase.active = false) (hn : nm1.toNat < s.params.maxUnits)
      (hcfg : (s.chan ch.toNat).cfg = true) (hv : (s.chan ch.toNat).desc0.valid = true) :
      CommandEffect s (.actb ch false false 0 nm1)
        ((s.setChan ch.toNat ((s.chan ch.toNat).activate s.argSrc s.argDst nm1)).markFaultedIf
          (!s.argSrcWritten || !s.argDstWritten))
  | stopKept (ch : Chn) (hc : ch.toNat < s.numChannels)
      (hp : (s.chan ch.toNat).phase = .faulted ∨ (s.chan ch.toNat).phase = .stopped) : CommandEffect s (.stop ch 0) s
  | stop (ch : Chn) (hc : ch.toNat < s.numChannels)
      (hf : (s.chan ch.toNat).phase ≠ .faulted) (hs : (s.chan ch.toNat).phase ≠ .stopped) :
      CommandEffect s (.stop ch 0)
        (s.setChan ch.toNat { s.chan ch.toNat with phase := .stopped, req := false, donePend := false })
  | unbind (ch : Chn) (hc : ch.toNat < s.numChannels) (ha : (s.chan ch.toNat).phase.active = false) :
      CommandEffect s (.unbind ch 0) (s.setChan ch.toNat { s.chan ch.toNat with cb := false })
  | violation (ch : Chn) (hc : ch.toNat < s.numChannels) (ha : (s.chan ch.toNat).phase.active = true) :
      CommandEffect s (.unbind ch 0) (((s.setChan ch.toNat
        { s.chan ch.toNat with phase := .faulted, cb := false, req := false, donePend := false }).record
          .callbackLifetime 0x5 false ch).markFaultedIf true)
  | clrovr (ch : Chn) (hc : ch.toNat < s.numChannels) :
      CommandEffect s (.clrovr ch 0) (s.setChan ch.toNat { s.chan ch.toNat with ovr := 0 })
  | ackerr : CommandEffect s (.ackerr 0 0) (s.setErr 0)
  | ackdone (ch : Chn) (hc : ch.toNat < s.numChannels) :
      CommandEffect s (.ackdone ch 0) (s.setChan ch.toNat { s.chan ch.toNat with donePend := false })

/-- CFGCH always answers, with one of the effects of `CommandEffect`. -/
theorem execCfgch_next (ch : Chn) (prio ie cb res3 : Bool) (trig : BitVec 8) (resHi : BitVec 12) (s : State) :
    ∃ t, execCfgch ch prio ie cb res3 trig resHi s = .next t
      ∧ CommandEffect s (.cfgch ch prio ie cb res3 trig resHi) t := by
  dsimp only [execCfgch]
  repeat' split
  any_goals exact ⟨_, rfl, .error _ _ _ _ (by decide)⟩
  next h1 h2 h3 h4 h5 h6 =>
    obtain ⟨rfl, rfl⟩ : res3 = false ∧ resHi = 0 := by simpa using h2
    exact ⟨_, rfl, .cfgch ch prio ie cb trig (by omega) h3 h4 (by simpa using h5) (by simpa using h6)⟩

/-- CFGDESC always answers, with one of the effects of `CommandEffect`. -/
theorem execCfgdesc_next (ch : Chn) (slot sinc dinc res3 : Bool) (size res76 : BitVec 2) (arb : BitVec 4)
    (prot : BitVec 3) (resHi : BitVec 9) (s : State) :
    ∃ t, execCfgdesc ch slot sinc dinc res3 size res76 arb prot resHi s = .next t
      ∧ CommandEffect s (.cfgdesc ch slot sinc dinc res3 size res76 arb prot resHi) t := by
  dsimp only [execCfgdesc]
  iterate 6 (split; exact ⟨_, rfl, .error _ _ _ _ (by decide)⟩)
  rename_i h1 h2 h3 h4 h5 h6
  obtain ⟨rfl, rfl, rfl⟩ : res3 = false ∧ res76 = 0 ∧ resHi = 0 := by simpa using h2
  obtain rfl : size = 0 := by simpa using h6
  exact ⟨_, rfl, .cfgdesc ch slot sinc dinc arb prot (by omega) h3 h4 (by simpa using h5)⟩

/-- ACTB always answers, with one of the effects of `CommandEffect`. -/
theorem execActb_next (ch : Chn) (slot burst : Bool) (res72 : BitVec 6) (nm1 : BitVec 16) (s : State) :
    ∃ t, execActb ch slot burst res72 nm1 s = .next t ∧ CommandEffect s (.actb ch slot burst res72 nm1) t := by
  dsimp only [execActb]
  repeat' split
  any_goals exact ⟨_, rfl, .error _ _ _ _ (by decide)⟩
  next h1 h2 h3 h4 h5 h6 h7 h8 =>
    obtain rfl : res72 = 0 := by simpa using h2
    obtain ⟨rfl, rfl⟩ : slot = false ∧ burst = false := by simpa using h6
    simp only [not_or, Bool.not_eq_false] at h8
    exact ⟨_, rfl, .actb ch nm1 (by omega) h3 h4 (by simpa using h5) (by omega) h8.1 h8.2⟩

/-- Every command answers a next state, with one of the effects of `CommandEffect`. -/
theorem runCommand_next (i : Instr) (w : Word) (hi : encodeCommand i = some w) (s : State) :
    ∃ t, runCommand i s = .next t ∧ CommandEffect s i t := by
  cases i <;> simp only [encodeCommand, reduceCtorEq] at hi
  case nop ch pay =>
    by_cases h : ch ≠ 0 ∨ pay ≠ 0
    · exact ⟨_, by simp only [runCommand, execNop, h, if_true]; rfl, .error _ _ _ _ (by decide)⟩
    · obtain ⟨rfl, rfl⟩ : ch = 0 ∧ pay = 0 := by simpa using h
      exact ⟨_, rfl, .nop⟩
  case cfgch => exact execCfgch_next ..
  case cfgdesc => exact execCfgdesc_next ..
  case actb => exact execActb_next ..
  case stop ch pay =>
    dsimp only [runCommand, execStop]
    repeat' split
    any_goals exact ⟨_, rfl, .error _ _ _ _ (by decide)⟩
    · next h1 h2 h3 => obtain rfl : pay = 0 := by simpa using h2
                       exact ⟨_, rfl, .stopKept ch (by omega) h3⟩
    · next h1 h2 h3 => obtain rfl : pay = 0 := by simpa using h2
                       rw [not_or] at h3
                       exact ⟨_, rfl, .stop ch (by omega) h3.1 h3.2⟩
  case unbind ch pay =>
    dsimp only [runCommand, execUnbind]
    repeat' split
    any_goals exact ⟨_, rfl, .error _ _ _ _ (by decide)⟩
    · next h1 h2 h3 => obtain rfl : pay = 0 := by simpa using h2
                       exact ⟨_, rfl, .violation ch (by omega) h3⟩
    · next h1 h2 h3 => obtain rfl : pay = 0 := by simpa using h2
                       exact ⟨_, rfl, .unbind ch (by omega) (by simpa using h3)⟩
  case clrovr ch pay =>
    dsimp only [runCommand, execClrovr]
    repeat' split
    any_goals exact ⟨_, rfl, .error _ _ _ _ (by decide)⟩
    next h1 h2 => obtain rfl : pay = 0 := by simpa using h2
                  exact ⟨_, rfl, .clrovr ch (by omega)⟩
  case ackerr ch pay =>
    by_cases h : ch ≠ 0 ∨ pay ≠ 0
    · exact ⟨_, by simp only [runCommand, execAckerr, h, if_true]; rfl, .error _ _ _ _ (by decide)⟩
    · obtain ⟨rfl, rfl⟩ : ch = 0 ∧ pay = 0 := by simpa using h
      exact ⟨_, rfl, .ackerr⟩
  case ackdone ch pay =>
    dsimp only [runCommand, execAckdone]
    repeat' split
    any_goals exact ⟨_, rfl, .error _ _ _ _ (by decide)⟩
    next h1 h2 => obtain rfl : pay = 0 := by simpa using h2
                  exact ⟨_, rfl, .ackdone ch (by omega)⟩
  all_goals exact ⟨_, rfl, .error _ _ _ _ (by decide)⟩

/-- `exec` of a command is `runCommand` of it, so a write to CMD does what `exec` of the decoded command does. -/
theorem exec_eq_runCommand (i : Instr) (w : Word) (hi : encodeCommand i = some w) (s : State) :
    exec i s = runCommand i s := by
  cases i <;> first | rfl | simp [encodeCommand] at hi

/-- Only a command is decoded from a word. -/
theorem decodeCommand_isCommand (v : Word) : ∃ w, encodeCommand (decodeCommand v) = some w := by
  unfold decodeCommand
  split <;> exact ⟨_, rfl⟩

/-- What an instruction that answers `t` did. -/
inductive InstrEffect (s : State) : Instr → State → Prop where
  | command (i : Instr) (w : Word) (t : State) (hi : encodeCommand i = some w) (h : CommandEffect s i t) :
      InstrEffect s i t
  | wrCmd (v : Word) (t : State) (h : CommandEffect s (decodeCommand v) t) : InstrEffect s (.wrCmd v) t
  | wrArgSrc (v : Word) : InstrEffect s (.wrArgSrc v) (s.setArgSrc v)
  | wrArgDst (v : Word) : InstrEffect s (.wrArgDst v) (s.setArgDst v)
  | readOnly (off : BitVec 12) (v : Word) (h : readOnlyOffset s.numChannels off = true) :
      InstrEffect s (.wrReadOnly off v) s
  /-- An ill-formed write term does what the write at its offset does (log entry 18). -/
  | writable (off : BitVec 12) (v : Word) (i : Instr) (t : State)
      (hi : i = .wrCmd v ∨ i = .wrArgSrc v ∨ i = .wrArgDst v) (h : InstrEffect s i t) :
      InstrEffect s (.wrReadOnly off v) t
  | rd (off : BitVec 12) (r : Reg) (h : regAt s.numChannels off = some r) :
      InstrEffect s (.rd off) (s.setHostResp (.word (s.regWord r)))
  | accessFault (i : Instr) (off : BitVec 12)
      (hi : (∃ a, i = .hostAccessFault a) ∨ i = .rd off ∨ ∃ v, i = .wrReadOnly off v) :
      InstrEffect s i ((s.setHostResp (.accessFault off s.params.hostFaultResponse)).markFaultedIf true)
  | arm (ch : Chn) (src dst : Word) (nm1 : BitVec 16) (t : State)
      (h : CommandEffect ((s.setArgSrc src).setArgDst dst) (.actb ch false false 0 nm1) t) :
      InstrEffect s (.arm ch src dst nm1) t
  | initeng : InstrEffect s .initeng (s.setErr 0)

/-- Every instruction answers a next state, with one of the effects of `InstrEffect`. -/
theorem exec_effect (i : Instr) (s : State) : ∃ t, exec i s = .next t ∧ InstrEffect s i t := by
  have wr (v : Word) : ∃ t, execWrCmd v s = .next t ∧ InstrEffect s (.wrCmd v) t := by
    obtain ⟨w, hw⟩ := decodeCommand_isCommand v
    obtain ⟨t, ht, he⟩ := runCommand_next _ w hw s
    exact ⟨t, ht, .wrCmd v t he⟩
  cases hi : encodeCommand i with
  | some w =>
    obtain ⟨t, ht, he⟩ := runCommand_next i w hi s
    exact ⟨t, by rw [exec_eq_runCommand i w hi, ht], .command i w t hi he⟩
  | none =>
    cases i <;> simp only [encodeCommand, reduceCtorEq] at hi
    case wrCmd v => exact wr v
    case wrArgSrc v => exact ⟨_, rfl, .wrArgSrc v⟩
    case wrArgDst v => exact ⟨_, rfl, .wrArgDst v⟩
    case wrReadOnly off v =>
      dsimp only [exec, execWrReadOnly]
      split
      · obtain ⟨t, ht, he⟩ := wr v
        exact ⟨t, ht, .writable off v _ t (.inl rfl) he⟩
      · exact ⟨_, rfl, .writable off v _ _ (.inr (.inl rfl)) (.wrArgSrc v)⟩
      · exact ⟨_, rfl, .writable off v _ _ (.inr (.inr rfl)) (.wrArgDst v)⟩
      all_goals first
        | exact ⟨_, rfl, .readOnly off v (by simp [readOnlyOffset, *])⟩
        | exact ⟨_, rfl, .accessFault _ off (.inr (.inr ⟨v, rfl⟩))⟩
    case rd off =>
      dsimp only [exec, execRd]
      split
      · next r h => exact ⟨_, rfl, .rd off r h⟩
      · exact ⟨_, rfl, .accessFault _ off (.inr (.inl rfl))⟩
    case hostAccessFault a => exact ⟨_, rfl, .accessFault _ a.off (.inl ⟨a, rfl⟩)⟩
    case arm ch src dst nm1 =>
      obtain ⟨t, ht, he⟩ := execActb_next ch false false 0 nm1 ((s.setArgSrc src).setArgDst dst)
      exact ⟨t, ht, .arm ch src dst nm1 t he⟩
    case initeng => exact ⟨_, rfl, .initeng⟩

/-- The inversion form: what an instruction that answers `t` did. -/
theorem exec_next (i : Instr) (s t : State) (h : exec i s = .next t) : InstrEffect s i t := by
  obtain ⟨u, hu, he⟩ := exec_effect i s
  rw [h] at hu
  cases hu
  exact he

/-- The state an event runs in: the agenda or the draw count has moved. -/
def State.popped (s : State) : State :=
  match s.agenda with
  | [] => s.countDraw
  | _ :: es => s.setAgenda es

/-- A step is its event, taken in the state the event leaves behind. -/
theorem step_eq (s : State) : step s = takeEvent s.headEvent s.popped := by
  cases h : s.agenda <;> simp [step, State.headEvent, State.popped, h]

/-- Taking the event off changes only the agenda and the draw count. -/
theorem State.popped_eq (s : State) : s.popped = { s with agenda := s.popped.agenda, drawn := s.popped.drawn } := by
  unfold State.popped
  split <;> rfl

/-- A run of one step more, of any machine, begins with that step. -/
theorem run_succ (M : Host.Core) (n : Nat) (s t : M.State) (h : M.step s = .next t) : M.run (n + 1) s = M.run n t := by
  simp only [Host.Core.run, h]

/-- The same of the engine's machine. -/
theorem core_run_succ (n : Nat) (s t : State) (h : step s = .next t) :
    Sys2Proof.core.run (n + 1) s = Sys2Proof.core.run n t :=
  run_succ Sys2Proof.core n s t h

end Sys2Proof.Machine
end

