-- ==== Sys2Proof/Laws/Engine.lean ====
section
/-! SUPPORT. The engine seen from one channel: when a grant is enabled, what a register read gives bit by bit, and everything
a command and an event can do to one channel. -/

namespace Sys2Proof.Machine

/-- `Grant(c)` is enabled exactly as 43_engine.md R165 says. -/
theorem State.grantEnabled_iff (s : State) (c : Nat) :
    s.grantEnabled c = true ↔ (s.chan c).req = true ∧ ((s.chan c).prio = true
      ∨ ∀ d, d < s.numChannels → (s.chan d).req = true → (s.chan d).prio = false) := by
  simp only [State.grantEnabled, Bool.and_eq_true, Bool.or_eq_true, Bool.not_eq_true', List.any_eq_false]
  refine and_congr_right fun _ => or_congr_right ⟨fun h d hd hr => ?_, fun h x hx => ?_⟩
  · simpa [hr] using h _ (s.chan_mem d hd)
  · obtain ⟨d, hd, rfl⟩ := s.exists_chan_of_mem x hx
    simpa using h d hd

/-- The saturating successor, as arithmetic. -/
theorem satSucc_eq (x : Word) : satSucc x = BitVec.ofNat 32 (min (x.toNat + 1) (2 ^ 32 - 1)) := by
  by_cases h : x = BitVec.allOnes 32
  · subst h; rfl
  · have hx := x.isLt
    have hm : x.toNat ≠ 2 ^ 32 - 1 := fun e => h (BitVec.eq_of_toNat_eq (by simpa using e))
    rw [satSucc, if_neg h]
    apply BitVec.eq_of_toNat_eq
    simp [BitVec.toNat_add]
    omega

/-- Bit `j` of `DONEPEND`. -/
theorem donePendWord_getLsbD (cs : List Channel) (h : cs.length ≤ 32) (j : Nat) :
    (donePendWord cs).getLsbD j = (decide (j < cs.length) && (cs[j]?.getD Channel.reset).donePend) := by
  induction cs generalizing j with
  | nil => simp [donePendWord]
  | cons c cs ih =>
    simp only [List.length_cons] at h
    simp only [donePendWord, BitVec.getLsbD_or, BitVec.getLsbD_shiftLeft, ih (by omega)]
    cases j with
    | zero => simp
    | succ j =>
      by_cases hj : j < cs.length
      · simp [hj]; intro; omega
      · simp [hj]

/-- The register at an offset of a channel block. -/
theorem regAt_chan (n c k : Nat) (off : BitVec 12) (r : ChanReg) (hr : chanRegAt (4 * k) = some r) (hc : c < n) (hk : k ≤ 8)
    (ho : off.toNat = 0x100 + 0x40 * c + 4 * k) : regAt n off = some (.chan c r) := by
  unfold regAt
  split
  iterate 6 exfalso; omega
  have hd : (off.toNat - 0x100) / 0x40 = c := by omega
  have hm : (off.toNat - 0x100) % 0x40 = 4 * k := by omega
  rw [if_pos ⟨by omega, by omega⟩, hd, hm, hr]
  rfl

/-- The forms the decoder answers. -/
theorem decodeAccess_cases (n : Nat) (a : HostAccess) :
    (∃ v, decodeAccess n a = .wrCmd v) ∨ (∃ v, decodeAccess n a = .wrArgSrc v) ∨ (∃ v, decodeAccess n a = .wrArgDst v)
    ∨ (∃ v, decodeAccess n a = .wrReadOnly a.off v ∧ readOnlyOffset n a.off = true)
    ∨ decodeAccess n a = .rd a.off ∨ decodeAccess n a = .hostAccessFault a := by
  unfold decodeAccess
  split
  · simp
  · split <;> simp_all [readOnlyOffset]
    split <;> simp_all

/-- Everything a command can do to channel `c`. -/
theorem CommandEffect.chan {s t : State} {i : Instr} (h : CommandEffect s i t) (c : Nat) (hc : c < s.numChannels) :
    t.chan c = s.chan c
    ∨ (∃ ch prio ie cb trig, ch.toNat = c ∧ i = .cfgch ch prio ie cb false trig 0 ∧ t.chan c = { s.chan c with
        prio := prio, ie := ie, cb := cb, trig := trig, cfg := true, donePend := (s.chan c).donePend && ie })
    ∨ (∃ ch slot sinc dinc arb prot, ch.toNat = c ∧ i = .cfgdesc ch slot sinc dinc false 0 0 arb prot 0
        ∧ t.chan c = (if slot then { s.chan c with desc1 := ⟨true, sinc, dinc, 0, arb, prot⟩ }
          else { s.chan c with desc0 := ⟨true, sinc, dinc, 0, arb, prot⟩ }))
    ∨ (∃ ch nm1, ch.toNat = c ∧ i = .actb ch false false 0 nm1
        ∧ ((s.chan c).phase = .unarmed ∨ (s.chan c).phase = .completed)
        ∧ t.chan c = (s.chan c).activate s.argSrc s.argDst nm1)
    ∨ (∃ ch, ch.toNat = c ∧ i = .stop ch 0 ∧ (s.chan c).phase ≠ .faulted ∧ (s.chan c).phase ≠ .stopped
        ∧ t.chan c = { s.chan c with phase := .stopped, req := false, donePend := false })
    ∨ (∃ ch, ch.toNat = c ∧ i = .unbind ch 0 ∧ t.chan c = { s.chan c with cb := false })
    ∨ (∃ ch, ch.toNat = c ∧ i = .unbind ch 0 ∧ ((s.chan c).phase = .armed ∨ (s.chan c).phase = .inProgress)
        ∧ t.chan c = { s.chan c with phase := .faulted, cb := false, req := false, donePend := false })
    ∨ (∃ ch, ch.toNat = c ∧ i = .clrovr ch 0 ∧ t.chan c = { s.chan c with ovr := 0 })
    ∨ ∃ ch, ch.toNat = c ∧ i = .ackdone ch 0 ∧ t.chan c = { s.chan c with donePend := false } := by
  have set (ch : Chn) (x : Channel) :
      (c = ch.toNat ∧ (s.setChan ch.toNat x).chan c = x) ∨ (s.setChan ch.toNat x).chan c = s.chan c := by
    by_cases h : c = ch.toNat
    · subst h; exact .inl ⟨rfl, State.chan_setChan_same _ _ _ hc⟩
    · exact .inr (State.chan_setChan_ne _ _ _ _ h)
  cases h with
  | error | nop | stopKept | ackerr => exact .inl rfl
  | cfgch ch =>
    rcases set ch _ with ⟨rfl, e⟩ | e
    exacts [.inr (.inl ⟨_, _, _, _, _, rfl, rfl, e⟩), .inl e]
  | cfgdesc ch =>
    rcases set ch _ with ⟨rfl, e⟩ | e
    exacts [.inr (.inr (.inl ⟨_, _, _, _, _, _, rfl, rfl, e⟩)), .inl e]
  | actb ch nm1 _ hf hs ha =>
    rcases set ch _ with ⟨rfl, e⟩ | e
    · refine .inr (.inr (.inr (.inl ⟨_, _, rfl, rfl, ?_, e⟩)))
      revert hf hs ha
      cases (s.chan ch.toNat).phase <;> simp [Phase.active]
    · exact .inl e
  | stop ch _ hf hs =>
    rcases set ch _ with ⟨rfl, e⟩ | e
    exacts [.inr (.inr (.inr (.inr (.inl ⟨_, rfl, rfl, hf, hs, e⟩)))), .inl e]
  | unbind ch =>
    rcases set ch _ with ⟨rfl, e⟩ | e
    exacts [.inr (.inr (.inr (.inr (.inr (.inl ⟨_, rfl, rfl, e⟩))))), .inl e]
  | violation ch _ ha =>
    rcases set ch { s.chan ch.toNat with phase := .faulted, cb := false, req := false, donePend := false } with
      ⟨rfl, e⟩ | e
    · refine .inr (.inr (.inr (.inr (.inr (.inr (.inl ⟨_, rfl, rfl, ?_, e⟩))))))
      revert ha
      cases (s.chan ch.toNat).phase <;> simp [Phase.active]
    · exact .inl e
  | clrovr ch =>
    rcases set ch _ with ⟨rfl, e⟩ | e
    exacts [.inr (.inr (.inr (.inr (.inr (.inr (.inr (.inl ⟨_, rfl, rfl, e⟩))))))), .inl e]
  | ackdone ch =>
    rcases set ch _ with ⟨rfl, e⟩ | e
    exacts [.inr (.inr (.inr (.inr (.inr (.inr (.inr (.inr ⟨_, rfl, rfl, e⟩))))))), .inl e]

/-- Everything an event other than reset can do to channel `c` of `s`. -/
inductive ChannelEffect (s : State) (c : Nat) : Event → Channel → Prop where
  | kept (e : Event) (h : e ≠ .reset) : ChannelEffect s c e (s.chan c)
  | command (a : HostAccess) (v : Word) (t : State) (ha : decodeAccess s.numChannels a = .wrCmd v)
      (h : CommandEffect s (decodeCommand v) t) : ChannelEffect s c (.host a) (t.chan c)
  | trigger (code : BitVec 8) : ChannelEffect s c (.trigger code) ((s.chan c).trigger code)
  | busError (h : s.grantEnabled c = true) :
      ChannelEffect s c (.grant c) { s.chan c with phase := .faulted, req := false }
  | unit (h : s.grantEnabled c = true) : ChannelEffect s c (.grant c) (s.chan c).afterUnit
  | rearm (h : s.rearmEnabled c = true) : ChannelEffect s c (.rearm c) (s.chan c).rearm

/-- A unit leaves every channel but its own. -/
theorem State.chan_unitStep_ne (s : State) (c d : Nat) (h : d ≠ c) : (s.unitStep c).chan d = s.chan d := by
  rcases s.unitStep_cases c with ⟨_, e⟩ | ⟨_, _, e⟩ | ⟨_, _, e⟩ <;> rw [e]
  · rw [State.busError_eq]; exact State.chan_setChan_ne s c d _ h
  · rw [State.afterRead_eq, State.busError_eq]; exact State.chan_setChan_ne s c d _ h
  · rw [State.chan_setChan_ne _ _ _ _ h, State.writeByte_eq, State.afterRead_eq]; rfl

/-- A unit faults its own channel or moves it on. -/
theorem State.chan_unitStep_same (s : State) (c : Nat) (h : c < s.numChannels) :
    (s.unitStep c).chan c = { s.chan c with phase := .faulted, req := false }
    ∨ (s.unitStep c).chan c = (s.chan c).afterUnit := by
  rcases s.unitStep_cases c with ⟨_, e⟩ | ⟨_, _, e⟩ | ⟨_, _, e⟩ <;> rw [e]
  · rw [State.busError_eq]; exact .inl (State.chan_setChan_same s c _ h)
  · rw [State.afterRead_eq, State.busError_eq]; exact .inl (State.chan_setChan_same s c _ h)
  · refine .inr (State.chan_setChan_same _ c _ ?_)
    rw [State.writeByte_eq, State.afterRead_eq]; exact h

/-- What an event that answers `t` did to channel `c`. -/
theorem takeEvent_channel (s t : State) (e : Event) (he : e ≠ .reset) (h : takeEvent e s = .next t) (c : Nat)
    (hc : c < s.numChannels) : ChannelEffect s c e (t.chan c) := by
  cases e with
  | reset => exact absurd rfl he
  | host a =>
    have h' : exec (decodeAccess s.numChannels a) s = .next t := h
    rcases decodeAccess_cases s.numChannels a with ⟨v, e⟩ | ⟨v, e⟩ | ⟨v, e⟩ | ⟨v, e, hr⟩ | e | e <;> rw [e] at h'
    · cases exec_next _ _ _ h' with
      | command _ w _ hi => simp [encodeCommand] at hi
      | wrCmd v t h => exact .command a v t e h
      | accessFault _ _ hi => simp at hi
    · cases h'; exact .kept _ he
    · cases h'; exact .kept _ he
    · simp only [readOnlyOffset] at hr
      simp only [exec, execWrReadOnly] at h'
      split at h' <;> simp_all <;> exact .kept _ (by simp)
    · simp only [exec, execRd] at h'
      split at h'
      · cases h'; exact .kept _ he
      · rw [hostAccessFault_next] at h'; cases h'; exact .kept _ he
    · simp only [exec, execHostAccessFault, hostAccessFault_next] at h'
      cases h'; exact .kept _ he
  | hostStore a v =>
    rcases hostStoreStep_cases a v s with ⟨off, _, e⟩ | ⟨_, e⟩ <;> simp only [takeEvent, e] at h
    · rw [hostAccessFault_next] at h; cases h; exact .kept _ he
    · rw [State.writeByte_eq] at h; cases h; exact .kept _ he
  | hostLoad a =>
    rcases hostLoadStep_cases a s with ⟨off, _, e⟩ | ⟨_, e⟩ <;> simp only [takeEvent, e] at h
    · rw [hostAccessFault_next] at h; cases h; exact .kept _ he
    · rw [State.afterRead_eq] at h; cases h; exact .kept _ he
  | trigger code =>
    cases h
    rcases s.triggerStep_cases code with ⟨_, e⟩ | ⟨_, e⟩ <;> rw [e]
    · exact .kept _ he
    · rw [State.chan_mapChans _ _ _ hc]; exact .trigger _
  | grant d =>
    cases h
    rcases s.grantStep_cases d with ⟨_, e⟩ | ⟨hg, e⟩ <;> rw [e]
    · exact .kept _ he
    · by_cases hd : c = d
      · subst hd
        rcases s.chan_unitStep_same c hc with e | e <;> rw [e]
        exacts [.busError hg, .unit hg]
      · rw [State.chan_unitStep_ne _ _ _ hd]; exact .kept _ he
  | rearm d =>
    cases h
    rcases s.rearmStep_cases d with ⟨_, e⟩ | ⟨hg, e⟩ <;> rw [e]
    · exact .kept _ he
    · by_cases hd : c = d
      · subst hd; rw [State.chan_setChan_same _ _ _ hc]; exact .rearm hg
      · rw [State.chan_setChan_ne _ _ _ _ hd]; exact .kept _ he

/-- A trigger that one channel alone takes, and no other channel is bound to. -/
theorem State.triggerStep_only (s : State) (c : Nat) (code : BitVec 8) (h0 : code ≠ 0) (hs : code ∈ s.params.triggerSet)
    (ha : (s.chan c).phase.active = true) (hr : (s.chan c).req = false) (hb : (s.chan c).boundTo code = true)
    (ho : ∀ d, d < s.numChannels → d ≠ c → (s.chan d).boundTo code = false) :
    s.triggerStep code = s.setChan c { s.chan c with req := true } := by
  have ht : triggerCode s.params code = true := by simp [triggerCode, hs]; simpa using h0
  have hm : s.chans.map (Channel.trigger code) = s.chans.set c { s.chan c with req := true } := by
    apply List.ext_getElem
    · simp
    · intro i h1 h2
      have hi : i < s.chans.length := by simpa using h1
      have e : s.chans[i] = s.chan i := by simp [State.chan, List.getElem?_eq_getElem hi]
      simp only [List.getElem_map, List.getElem_set, e]
      split
      · next h => subst h; exact Channel.trigger_taken _ _ hb ha hr
      · next h => exact Channel.trigger_unbound _ _ (ho i hi (Ne.symm h))
  simp [State.triggerStep, ht, State.mapChans, State.setChan, hm]

/-- A byte that MEM_MAP lets the engine write lies outside the engine's block (20_memory.md R61). -/
theorem writable_outside_block (p : Params) (hp : ParamsOk p) (a : Word) (hw : writable p a = true) : blockOffset p a = none := by
  simp only [writable, List.any_eq_true] at hw
  obtain ⟨r, hr, hin⟩ := hw
  have hb := (List.all_eq_true.1 hp.block_not_written) r hr
  have ha : p.engineBase.toNat % 4096 = 0 := by
    simpa [BitVec.extractLsb'_toNat] using congrArg BitVec.toNat hp.base_aligned
  simp only [inRange, clearOfBlock, Bool.and_eq_true, Bool.or_eq_true, decide_eq_true_eq, BitVec.le_def,
    BitVec.lt_def, BitVec.toNat_add, BitVec.toNat_ofNat, Nat.reducePow, Nat.reduceMod] at hin hb
  have h1 := a.isLt
  have h2 := p.engineBase.isLt
  unfold blockOffset
  rw [if_neg]
  rw [BitVec.toNat_sub]
  omega

end Sys2Proof.Machine
end

