-- ==== Sys2Proof/Laws/PerInstr.lean ====
section
/-! SUPPORT. Statements made for every instruction, one lemma per constructor: the host performs it with 32-bit accesses at
mapped offsets, one access for all but ARM, and only HOST_ACCESS_FAULT with any other (30_encoding.md R92, R95). -/

namespace Sys2Proof.Laws.Accesses

/-- A well-formed instruction is performed by three accesses if it is ARM and by one otherwise, and each is a 32-bit access
of a mapped offset unless the instruction is HOST_ACCESS_FAULT. -/
def Statement (i : Instr) : Prop :=
  (encode i).length = (match i with | .arm _ _ _ _ => 3 | _ => 1)
  ∧ ∀ n, i.wellFormed n = true → (∀ a, i ≠ .hostAccessFault a) →
      ∀ a ∈ encode i, a.width = .word ∧ (regAt n a.off).isSome = true

/-- A command: one write to CMD. -/
theorem of_command (i : Instr) (w : Word) (h : encode i = [wrAccess 0x000 w]) (hn : ∀ a b c d, i ≠ .arm a b c d) :
    Statement i := by
  refine ⟨?_, fun n _ _ a ha => ?_⟩
  · rw [h]
    cases i <;> first | rfl | exact absurd rfl (hn _ _ _ _)
  · rw [h, List.mem_singleton] at ha
    subst ha
    exact ⟨rfl, rfl⟩

theorem nop (ch : Chn) (pay : BitVec 24) : Statement (.nop ch pay) := of_command _ _ rfl nofun
theorem cfgch (ch : Chn) (prio ie cb res3 : Bool) (trig : BitVec 8) (resHi : BitVec 12) :
    Statement (.cfgch ch prio ie cb res3 trig resHi) := of_command _ _ rfl nofun
theorem cfgdesc (ch : Chn) (slot sinc dinc res3 : Bool) (size res76 : BitVec 2) (arb : BitVec 4) (prot : BitVec 3)
    (resHi : BitVec 9) : Statement (.cfgdesc ch slot sinc dinc res3 size res76 arb prot resHi) := of_command _ _ rfl nofun
theorem actb (ch : Chn) (slot burst : Bool) (res72 : BitVec 6) (nm1 : BitVec 16) : Statement (.actb ch slot burst res72 nm1) :=
  of_command _ _ rfl nofun
theorem stop (ch : Chn) (pay : BitVec 24) : Statement (.stop ch pay) := of_command _ _ rfl nofun
theorem unbind (ch : Chn) (pay : BitVec 24) : Statement (.unbind ch pay) := of_command _ _ rfl nofun
theorem clrovr (ch : Chn) (pay : BitVec 24) : Statement (.clrovr ch pay) := of_command _ _ rfl nofun
theorem ackerr (ch : Chn) (pay : BitVec 24) : Statement (.ackerr ch pay) := of_command _ _ rfl nofun
theorem ackdone (ch : Chn) (pay : BitVec 24) : Statement (.ackdone ch pay) := of_command _ _ rfl nofun
theorem illegal9 (ch : Chn) (pay : BitVec 24) : Statement (.illegal9 ch pay) := of_command _ _ rfl nofun
theorem illegalA (ch : Chn) (pay : BitVec 24) : Statement (.illegalA ch pay) := of_command _ _ rfl nofun
theorem illegalB (ch : Chn) (pay : BitVec 24) : Statement (.illegalB ch pay) := of_command _ _ rfl nofun
theorem illegalC (ch : Chn) (pay : BitVec 24) : Statement (.illegalC ch pay) := of_command _ _ rfl nofun
theorem illegalD (ch : Chn) (pay : BitVec 24) : Statement (.illegalD ch pay) := of_command _ _ rfl nofun
theorem illegalE (ch : Chn) (pay : BitVec 24) : Statement (.illegalE ch pay) := of_command _ _ rfl nofun
theorem illegalF (ch : Chn) (pay : BitVec 24) : Statement (.illegalF ch pay) := of_command _ _ rfl nofun
theorem wrCmd (v : Word) : Statement (.wrCmd v) := of_command _ _ rfl nofun

theorem wrArgSrc (v : Word) : Statement (.wrArgSrc v) := by
  refine ⟨rfl, fun n _ _ a ha => ?_⟩
  obtain rfl := List.mem_singleton.1 ha
  exact ⟨rfl, rfl⟩

theorem wrArgDst (v : Word) : Statement (.wrArgDst v) := by
  refine ⟨rfl, fun n _ _ a ha => ?_⟩
  obtain rfl := List.mem_singleton.1 ha
  exact ⟨rfl, rfl⟩

theorem wrReadOnly (off : BitVec 12) (v : Word) : Statement (.wrReadOnly off v) := by
  refine ⟨rfl, fun n h _ a ha => ?_⟩
  obtain rfl := List.mem_singleton.1 ha
  refine ⟨rfl, ?_⟩
  simp only [Instr.wellFormed, readOnlyOffset] at h
  show (regAt n off).isSome = true
  cases hr : regAt n off <;> simp_all

theorem rd (off : BitVec 12) : Statement (.rd off) := by
  refine ⟨rfl, fun n h _ a ha => ?_⟩
  obtain rfl := List.mem_singleton.1 ha
  exact ⟨rfl, h⟩

theorem hostAccessFault (a : HostAccess) : Statement (.hostAccessFault a) :=
  ⟨rfl, fun _ _ h => (h a rfl).elim⟩

theorem arm (ch : Chn) (src dst : Word) (nm1 : BitVec 16) : Statement (.arm ch src dst nm1) := by
  refine ⟨rfl, fun n _ _ a ha => ?_⟩
  simp only [encode, List.mem_cons, List.not_mem_nil, or_false] at ha
  rcases ha with rfl | rfl | rfl <;> exact ⟨rfl, rfl⟩

theorem initeng : Statement .initeng := of_command _ _ rfl nofun

end Sys2Proof.Laws.Accesses
end

