-- ==== Sys2Proof/Tests/Slice0.lean ====
section
/-! SUPPORT. The model's own tests: expected words and values are those of spec/95_test_vectors.md (V1 to V144), or written out
bit by bit from 30_encoding.md; then, for every statement with hypotheses, states and operands that meet them. -/

namespace Sys2Proof.Tests

open Sys2Proof.Machine

/-! ### Small states -/

/-- The state an instruction leaves, where it answers one. -/
def after (i : Instr) (s : State) : State :=
  match exec i s with
  | .next t => t
  | .fault _ => s
  | .refused _ => s

/-- The state an event leaves, where it answers one. -/
def afterEvent (e : Event) (s : State) : State :=
  match takeEvent e s with
  | .next t => t
  | .fault _ => s
  | .refused _ => s

/-- The parameters of 95_test_vectors.md section 0, two channels, at reset. -/
def start : State := State.initial exampleParams 2

/-- Channel 0 after steps 2 and 3 of SETUP: configured, not armed. -/
def rxReady : Channel :=
  { Channel.reset with cfg := true, ie := true, cb := true, trig := 1, desc0 := ⟨true, false, true, 0, 0, 0⟩ }

/-- Channel 1 after steps 7 and 8 of SETUP. -/
def txReady : Channel :=
  { Channel.reset with cfg := true, ie := true, cb := true, trig := 2, desc0 := ⟨true, true, false, 0, 0, 0⟩ }

/-- Channel 0 after SETUP. -/
def rxArmed : Channel := rxReady.activate 0x50000000 0x20000100 9

/-- Channel 1 after SETUP. -/
def txArmed : Channel := txReady.activate 0x20000000 0x50000004 9

/-- Both channels given, `ARG_SRC` and `ARG_DST` written as for channel 0. -/
def two (c0 c1 : Channel) : State := ({ start with chans := [c0, c1] }.setArgSrc 0x50000000).setArgDst 0x20000100

/-- The state after SETUP, but for the staging registers. -/
def setup : State := two rxArmed txArmed

/-- Channel 0 with a completion pending (V140). -/
def rxDone : Channel := { rxArmed with phase := .completed, remain := 0, done := 1, donePend := true }

/-! ### Decoding: one word per constructor -/

theorem test_decode_nop : decodeCommand 0x00000000 = .nop 0 0 := by decide
theorem test_decode_cfgch : decodeCommand 0x11000025 = .cfgch 1 true false true false 0x02 0 := by decide
theorem test_decode_cfgch_fields : decodeCommand 0x1FFFF802 = .cfgch 0xF false true false false 0x80 0xFFF := by decide
theorem test_decode_cfgdesc : decodeCommand 0x20007F06 = .cfgdesc 0 false true true false 0 0 15 7 0 := by decide
theorem test_decode_cfgdesc_fields : decodeCommand 0x2EFF80D9 = .cfgdesc 0xE true false false true 1 3 0 0 0x1FF := by decide
theorem test_decode_actb : decodeCommand 0x31000900 = .actb 1 false false 0 9 := by decide
theorem test_decode_actb_fields : decodeCommand 0x3FABCDFE = .actb 0xF false true 0x3F 0xABCD := by decide
theorem test_decode_stop : decodeCommand 0x41000000 = .stop 1 0 := by decide
theorem test_decode_unbind : decodeCommand 0x53000000 = .unbind 3 0 := by decide
theorem test_decode_clrovr : decodeCommand 0x61000000 = .clrovr 1 0 := by decide
theorem test_decode_ackerr : decodeCommand 0x70000001 = .ackerr 0 1 := by decide
theorem test_decode_ackdone : decodeCommand 0x80000100 = .ackdone 0 0x100 := by decide
theorem test_decode_illegal9 : decodeCommand 0x90000000 = .illegal9 0 0 := by decide
theorem test_decode_illegalA : decodeCommand 0xA1000000 = .illegalA 1 0 := by decide
theorem test_decode_illegalB : decodeCommand 0xB0000000 = .illegalB 0 0 := by decide
theorem test_decode_illegalC : decodeCommand 0xCF000001 = .illegalC 0xF 1 := by decide
theorem test_decode_illegalD : decodeCommand 0xD2345678 = .illegalD 2 0x345678 := by decide
theorem test_decode_illegalE : decodeCommand 0xEFFFFFFF = .illegalE 0xF 0xFFFFFF := by decide
theorem test_decode_illegalF : decodeCommand 0xF3ABCDEF = .illegalF 3 0xABCDEF := by decide
theorem test_decode_wrCmd : decodeAccess 2 ⟨.write 0x70000000, .word, 0x000⟩ = .wrCmd 0x70000000 := by decide
theorem test_decode_wrArgSrc : decodeAccess 2 ⟨.write 0x50000000, .word, 0x004⟩ = .wrArgSrc 0x50000000 := by decide
theorem test_decode_wrArgDst : decodeAccess 2 ⟨.write 0x20000100, .word, 0x008⟩ = .wrArgDst 0x20000100 := by decide
theorem test_decode_wrReadOnly : decodeAccess 2 ⟨.write 0, .word, 0x118⟩ = .wrReadOnly 0x118 0 := by decide
theorem test_decode_rd : decodeAccess 2 ⟨.read, .word, 0x160⟩ = .rd 0x160 := by decide
theorem test_decode_misaligned : decodeAccess 2 ⟨.read, .word, 0x002⟩ = .hostAccessFault ⟨.read, .word, 0x002⟩ := by decide
theorem test_decode_unmapped : decodeAccess 2 ⟨.read, .word, 0x180⟩ = .hostAccessFault ⟨.read, .word, 0x180⟩ := by decide
theorem test_decode_narrow :
    decodeAccess 2 ⟨.write 1, .half, 0x004⟩ = .hostAccessFault ⟨.write 1, .half, 0x004⟩ := by decide
/-- ARM's expansion (V57). -/
theorem test_encode_arm : encode (.arm 0 0x50000000 0x20000100 9)
    = [⟨.write 0x50000000, .word, 0x004⟩, ⟨.write 0x20000100, .word, 0x008⟩, ⟨.write 0x30000900, .word, 0x000⟩] := by decide
/-- INITENG's expansion. -/
theorem test_encode_initeng : encode .initeng = [⟨.write 0x70000000, .word, 0x000⟩] := by decide
/-- 20_memory.md R65: bits [7:0] at the lowest address. -/
theorem test_decode_bytes : (decodeBytes [0x16, 0x00, 0x00, 0x10, 0xFF]).toOption
    = some (.cfgch 0 false true true false 0x01 0, [0xFF]) := by decide
theorem test_decode_truncated : (decodeBytes [0x16, 0x00, 0x00]).toOption = none := by decide
theorem test_decode_table_words : decodeTableWord 32 0x53000000 = some (.unbind 3 0)
    ∧ decodeTableWord 12 0x004 = some (.wrArgSrc 0) ∧ decodeTableWord 16 0x100C = some (.rd 0x00C) := by decide

/-! ### Well-formedness: an ill-formed term for each check -/

theorem test_wf_writable_offset : (Instr.wrReadOnly 0x004 0).wellFormed 2 = false := by decide
theorem test_wf_unmapped_write : (Instr.wrReadOnly 0x018 0).wellFormed 2 = false := by decide
theorem test_wf_unmapped_read : (Instr.rd 0x180).wellFormed 2 = false := by decide
theorem test_wf_good_access_no_fault : (Instr.hostAccessFault ⟨.read, .word, 0x100⟩).wellFormed 2 = false := by decide
theorem test_wf_accepts : (Instr.rd 0x180).wellFormed 3 = true ∧ (Instr.wrReadOnly 0x014 0).wellFormed 2 = true
    ∧ (Instr.hostAccessFault ⟨.read, .byte, 0x100⟩).wellFormed 2 = true := by decide

/-! ### One step per vector -/

theorem test_nop_V2 : (after (.wrCmd 0x01000000) start).err = 0x80001003 := by decide
theorem test_nop_V3 : (after (.nop 0 1) start).err = 0x80000003 := by decide
theorem test_illegal_V7 : (after (.illegalB 0 0) (start.setErr 0x80000091)).err = 0xC0000091 := by decide
theorem test_illegal9_V4 : (after (.illegal9 0 0) start).err = 0x80000091 := by decide
theorem test_illegalA_V6 : (after (.illegalA 1 0) start).err = 0x800010A1 := by decide
theorem test_illegalC : (after (.illegalC 15 1) start).err = 0x8000F0C1 := by decide
theorem test_illegalD : (after (.illegalD 0 0) start).err = 0x800000D1 := by decide
theorem test_illegalE : (after (.illegalE 0 0) start).err = 0x800000E1 := by decide
theorem test_illegalF_V5 : (after (.illegalF 3 0xABCDEF) start).err = 0x800030F1 := by decide
theorem test_cfgch_V12 : ((after (.wrCmd 0x11000025) start).chan 1).statusWord = 0x00002520 := by decide
theorem test_cfgch_V18 : (after (.wrCmd 0x1F000008) start).err = 0x8000F012 := by decide
theorem test_cfgdesc_V32 : ((after (.wrCmd 0x20007F06) start).chan 0).desc0.word = 0x00007F06 := by decide
theorem test_cfgdesc_V33 : ((after (.wrCmd 0x20000003) start).chan 0).desc1.word = 0x00000002
    ∧ ((after (.wrCmd 0x20000003) start).chan 0).statusWord = 0x00000080 := by decide
theorem test_actb_V40 : ((after (.wrCmd 0x30000900) (two rxReady Channel.reset)).chan 0).statusWord = 0x00001661
    ∧ ((after (.wrCmd 0x30000900) (two rxReady Channel.reset)).chan 0).remain = 10 := by decide
theorem test_actb_V51 : (after (.wrCmd 0x30FFFF01) start).err = 0x80000034 := by decide
theorem test_stop_V62 : ((after (.wrCmd 0x40000000) (two rxDone Channel.reset)).chan 0)
    = { rxDone with phase := .stopped, donePend := false } := by decide
theorem test_stop_V65 : (after (.wrCmd 0x40000001) start).err = 0x80000043 := by decide
theorem test_unbind_V70 : (after (.wrCmd 0x50000000) setup).err = 0x8000005A
    ∧ ((after (.wrCmd 0x50000000) setup).chan 0).phase = .faulted ∧ (after (.wrCmd 0x50000000) setup).runFaulted = true := by
  decide
theorem test_unbind_V72 : (after (.wrCmd 0x50000000) (two rxDone Channel.reset)).irq = true := by decide
theorem test_clrovr_V81 : ((after (.wrCmd 0x61000000)
    (two Channel.reset { Channel.reset with phase := .faulted, ovr := 0xFFFFFFFF })).chan 1).ovr = 0 := by decide
theorem test_clrovr_V82 : (after (.wrCmd 0x62000000) start).err = 0x80002062 := by decide
theorem test_ackerr_V83 : (after (.wrCmd 0x70000000) (start.setErr 0x8000005A)).err = 0 := by decide
theorem test_ackerr_V85 : (after (.wrCmd 0x70000001) (start.setErr 0x8000005A)).err = 0xC000005A := by decide
theorem test_ackdone_V86 :
    (after (.wrCmd 0x81000000) (two Channel.reset { rxDone with cb := false })).irq = false := by decide
theorem test_ackdone_V89 : (after (.wrCmd 0x80000100) start).err = 0x80000083 := by decide
theorem test_wrArgSrc_V92 : (after (.wrArgSrc 0x12345678) start).argSrc = 0x12345678 := by decide
theorem test_wrArgDst : (after (.wrArgDst 0x20000100) start).argDst = 0x20000100 := by decide
theorem test_wrReadOnly_V93 : after (.wrReadOnly 0x00C 0xFFFFFFFF) (start.setErr 0x80000091) = start.setErr 0x80000091 := rfl
theorem test_rd_V90 : (after (.rd 0x014) start).hostResp = .word 0x03FF0002 := by decide
theorem test_rd_V97 : (after (.rd 0x010) (two Channel.reset rxDone)).hostResp = .word 0x00000002 := by decide
theorem test_hostAccessFault_V98 : (after (.hostAccessFault (rdAccess 0x002)) start).runFaulted = true
    ∧ (after (.hostAccessFault (rdAccess 0x002)) start).chans = start.chans := by decide
theorem test_arm_V57 : ((after (.arm 0 0x50000000 0x20000100 9) { start with chans := [rxReady, Channel.reset] }).chan 0)
    = rxArmed := by decide
theorem test_initeng : (after .initeng (start.setErr 0xC0000091)).err = 0 := by decide
theorem test_trigger_V110 : ((afterEvent (.trigger 0x01) setup).chan 0).statusWord = 0x00001669
    ∧ (afterEvent (.trigger 0x01) setup).chan 1 = txArmed := by decide
theorem test_trigger_V115 : ((afterEvent (.trigger 0x01)
    (two { rxArmed with req := true, ovr := 0xFFFFFFFF } Channel.reset)).chan 0).ovr = 0xFFFFFFFF := by decide
theorem test_grant_V120 :
    (afterEvent (.grant 1) ((two Channel.reset { txArmed with phase := .inProgress, remain := 7, req := true }).setMem
      [(0x20000003, 0x03)])).out = [0x03] := by decide
theorem test_grant_V132 :
    (afterEvent (.grant 0) (two { rxArmed with dst := 0x30000000, req := true } Channel.reset)).err = 0x8000010B
    ∧ (afterEvent (.grant 0) (two { rxArmed with dst := 0x30000000, req := true } Channel.reset)).rxReads = 1 := by decide
/-- 60_exceptions.md R201, the codes 4 to 9 with 0xB as in V34, V48, V19, V20, V21, V43 and V131. -/
theorem test_error_words : (after (.wrCmd 0x20000014) start).err = 0x80000024
    ∧ (after (.wrCmd 0x30000900) start).err = 0x80000035 ∧ (after (.wrCmd 0x10000016) setup).err = 0x80000016
    ∧ (after (.wrCmd 0x10000016) (two { rxReady with phase := .stopped } txReady)).err = 0x80000017
    ∧ (after (.wrCmd 0x10000016) (two { rxReady with phase := .faulted } txReady)).err = 0x80000018
    ∧ (after (.wrCmd 0x30040000) (two rxReady Channel.reset)).err = 0x80000039
    ∧ (afterEvent (.grant 1) (two rxArmed { txArmed with src := 0x30000000, req := true })).err = 0x8000110B := by decide
/-- 20_memory.md R67, R72: the host's load of RXDATA consumes a byte; its store to TXDATA sends one and is read back. -/
theorem test_hostLoad_rxdata : (afterEvent (.hostLoad 0x50000000) { setup with rxStream := [0x5A] }).hostResp = .byte 0x5A
    ∧ (afterEvent (.hostLoad 0x50000000) { setup with rxStream := [0x5A] }).rxReads = 1 := by decide
theorem test_hostStore_txdata : (afterEvent (.hostStore 0x50000004 0x03) setup).out = [0x03]
    ∧ (afterEvent (.hostLoad 0x50000004) (afterEvent (.hostStore 0x50000004 0x03) setup)).hostResp = .byte 0x03 := by decide
theorem test_rearm_V140 : (afterEvent (.rearm 0) (two rxDone Channel.reset)).chan 0
    = { rxArmed with done := 1 } := by decide

/-! ### States that meet the hypotheses of the statements, clause by clause -/

/-- Both channels configured, in phase `p`. -/
def inPhase (p : Phase) : State := two { rxReady with phase := p } { txReady with phase := p }

/-- `setup` with the events `es` to come. -/
def setupThen (es : List Event) : State := setup.setAgenda es

theorem paramsOk_example : ParamsOk exampleParams := by constructor <;> decide

/-- The invariant of a small state, from its two channels. -/
theorem inv_two (c0 c1 : Channel) (h0 : ChannelR26 exampleParams c0 ∧ ChannelExtra exampleParams c0 ∧ c0.phase ≠ .faulted)
    (h1 : ChannelR26 exampleParams c1 ∧ ChannelExtra exampleParams c1 ∧ c1.phase ≠ .faulted) : Inv (two c0 c1) where
  channels_ge := by show 2 ≤ 2; decide
  channels_le := by show 2 ≤ 16; decide
  params := paramsOk_example
  r26 := List.forall_mem_cons.2 ⟨h0.1, List.forall_mem_singleton.2 h1.1⟩
  extra := List.forall_mem_cons.2 ⟨h0.2.1, List.forall_mem_singleton.2 h1.2.1⟩
  err := by show ErrOk 0; constructor <;> decide
  mem_wf := ⟨.nil, fun _ h => nomatch h⟩
  mem_clear := fun _ h => nomatch h
  faulted_marked := List.forall_mem_cons.2
    ⟨fun h => absurd h h0.2.2, List.forall_mem_singleton.2 fun h => absurd h h1.2.2⟩

/-- The invariant does not read the events to come. -/
theorem inv_setAgenda (s : State) (es : List Event) (h : Inv s) : Inv (s.setAgenda es) :=
  ⟨h.1, h.2, h.3, h.4, h.5, h.6, h.7, h.8, h.9⟩

theorem inv_setup : Inv setup := by
  apply inv_two <;> refine ⟨?_, ?_, ?_⟩ <;> first | decide | constructor <;> decide

theorem inv_setupThen (es : List Event) : Inv (setupThen es) := inv_setAgenda _ _ inv_setup

/-- One channel completed with its interrupt disabled, one stopped. -/
def quiet : State := two { rxDone with ie := false, donePend := false } { txArmed with phase := .stopped }

theorem inv_quiet : Inv quiet := by
  apply inv_two <;> refine ⟨?_, ?_, ?_⟩ <;> first | decide | constructor <;> decide

/-- Both channels before the last unit of their burst. -/
def lastUnits : State := two { rxArmed with phase := .inProgress, remain := 1 } { txArmed with phase := .inProgress, remain := 1 }

theorem inv_lastUnits : Inv lastUnits := by
  apply inv_two <;> refine ⟨?_, ?_, ?_⟩ <;> first | decide | constructor <;> decide

/-- V131: the transmit channel armed with a source that is not readable. -/
def badSource : State := two rxArmed { txArmed with src := 0x30000000 }

theorem inv_badSource : Inv badSource := by
  apply inv_two <;> refine ⟨?_, ?_, ?_⟩ <;> first | decide | constructor <;> decide

/-- One channel faulted, in a marked run. -/
def faultedState : State := (two { rxArmed with phase := .faulted } txArmed).markFaultedIf true

theorem inv_faultedState : Inv faultedState where
  channels_ge := by show 2 ≤ 2; decide
  channels_le := by show 2 ≤ 16; decide
  params := paramsOk_example
  r26 := List.forall_mem_cons.2 ⟨by constructor <;> decide, List.forall_mem_singleton.2 (by constructor <;> decide)⟩
  extra := List.forall_mem_cons.2 ⟨by constructor <;> decide, List.forall_mem_singleton.2 (by constructor <;> decide)⟩
  err := by show ErrOk 0; constructor <;> decide
  mem_wf := ⟨.nil, fun _ h => nomatch h⟩
  mem_clear := fun _ h => nomatch h
  faulted_marked := fun _ _ _ => rfl

theorem witness_CommandEncodeDecodeAgree : encodeCommand (.nop 0 0) = some 0
    ∧ encodeCommand (.cfgch 0xF false true false false 0x80 0xFFF) = some 0x1FFFF802
    ∧ encodeCommand (.illegalF 0xF 0xFFFFFF) = some 0xFFFFFFFF := by decide

theorem witness_AccessEncodeDecodeAgree : ((Instr.rd 0x160).wellFormed 2 = true ∧ encodeCommand (.rd 0x160) = none
      ∧ Instr.rd 0x160 ≠ .initeng ∧ ∀ ch src dst nm1, Instr.rd 0x160 ≠ .arm ch src dst nm1)
    ∧ ((Instr.wrReadOnly 0x100 7).wellFormed 2 = true ∧ encodeCommand (.wrReadOnly 0x100 7) = none)
    ∧ encodeCommand (.actb 0 false false 0 9) = some 0x30000900 :=
  ⟨⟨by decide, rfl, nofun, nofun⟩, by decide, by decide⟩

/-- Offsets on both sides of every boundary. -/
theorem witness_BadAccessRaisesHostAccessFault :
    ([0x001, 0x018, 0x0FC, 0x124, 0x13C, 0x180, 0xFFC].all fun off =>
      decodeAccess start.numChannels (rdAccess off) == .hostAccessFault (rdAccess off)) = true
    ∧ ([0x000, 0x014, 0x100, 0x120, 0x140, 0x160].all fun off =>
      decodeAccess start.numChannels (rdAccess off) == .rd off) = true := by decide

theorem witness_StepTakesHeadEvent : (setupThen [.reset]).agenda = .reset :: [] ∧ setup.agenda = [] := by decide

theorem witness_StepRunsDecodedAccess :
    (setupThen [.host (wrAccess 0x000 0x40000000)]).agenda = .host (wrAccess 0x000 0x40000000) :: []
    ∧ decodeAccess 2 (wrAccess 0x000 0x40000000) = .wrCmd 0x40000000 ∧ (Instr.wrCmd 0x40000000).wellFormed 2 = true := by
  decide

theorem witness_NopExecutes : ((1 : Chn) ≠ 0 ∨ (0 : BitVec 24) ≠ 0) ∧ ((0 : Chn) ≠ 0 ∨ (1 : BitVec 24) ≠ 0) := by decide

/-- An unarmed and a completed channel, and the first and last code of TRIGGER_SET. -/
theorem witness_CfgchExecutes : (1#4).toNat < start.numChannels ∧ (start.chan 1).phase = .unarmed
    ∧ 0x00#8 ∈ start.params.triggerSet ∧ ((inPhase .completed).chan 1).phase = .completed
    ∧ 0x02#8 ∈ (inPhase .completed).params.triggerSet := by decide

/-- Channel 2 of 2 is none; 3 is no code of TRIGGER_SET; every phase can be met. -/
theorem witness_CfgchExecutes_errors : start.numChannels ≤ (2#4).toNat ∧ (1#4).toNat < start.numChannels
    ∧ (0xFFF#12 ≠ 0) ∧ 0x03#8 ∉ start.params.triggerSet
    ∧ ∀ p ∈ [Phase.unarmed, .armed, .inProgress, .completed, .stopped, .faulted],
        1 < (inPhase p).numChannels ∧ ((inPhase p).chan 1).phase = p ∧ 0x03#8 ∉ (inPhase p).params.triggerSet := by decide

theorem witness_CfgdescExecutes : (1#4).toNat < start.numChannels ∧ (start.chan 1).phase = .unarmed
    ∧ ((inPhase .completed).chan 1).phase = .completed := by decide

theorem witness_CfgdescExecutes_errors : start.numChannels ≤ (2#4).toNat ∧ (1#4).toNat < start.numChannels
    ∧ (1#2 ≠ 0 ∧ 3#2 ≠ 0 ∧ 0x100#9 ≠ 0)
    ∧ ∀ p ∈ [Phase.unarmed, .armed, .inProgress, .completed, .stopped, .faulted], ((inPhase p).chan 1).phase = p := by decide

/-- The least and the greatest admitted unit count, on an unarmed and a completed channel. -/
theorem witness_ActbExecutes : (1#4).toNat < (inPhase .unarmed).numChannels
    ∧ ((inPhase .unarmed).chan 1).phase = .unarmed ∧ ((inPhase .completed).chan 1).phase = .completed
    ∧ (0#16).toNat < (inPhase .unarmed).params.maxUnits ∧ (1023#16).toNat < (inPhase .completed).params.maxUnits
    ∧ ((inPhase .unarmed).chan 1).cfg = true ∧ ((inPhase .completed).chan 1).desc0.valid = true := by decide

theorem witness_ActbExecutes_errors : start.numChannels ≤ (2#4).toNat ∧ (1#4).toNat < start.numChannels ∧ 1#6 ≠ 0
    ∧ (start.chan 1).phase = .unarmed ∧ start.params.maxUnits ≤ (1024#16).toNat ∧ (1023#16).toNat < start.params.maxUnits
    ∧ (start.chan 1).cfg = false ∧ ((two Channel.reset { txReady with desc0 := Desc.reset }).chan 1).desc0.valid = false
    ∧ ∀ p ∈ [Phase.unarmed, .armed, .inProgress, .completed, .stopped, .faulted], ((inPhase p).chan 1).phase = p := by decide

theorem witness_StopExecutes : start.numChannels ≤ (2#4).toNat ∧ 1#24 ≠ 0
    ∧ ∀ p ∈ [Phase.unarmed, .armed, .inProgress, .completed, .stopped, .faulted],
        (1#4).toNat < (inPhase p).numChannels ∧ ((inPhase p).chan 1).phase = p := by decide

theorem witness_UnbindExecutes : start.numChannels ≤ (2#4).toNat ∧ 0x800000#24 ≠ 0 ∧ (0#4).toNat < start.numChannels
    ∧ (start.chan 0).phase ≠ .armed ∧ (start.chan 0).phase ≠ .inProgress := by decide

theorem witness_UnbindExecutes_active : (1#4).toNat < setup.numChannels ∧ (setup.chan 1).phase = .armed
    ∧ ((inPhase .inProgress).chan 1).phase = .inProgress := by decide

theorem witness_ClrovrExecutes : start.numChannels ≤ (2#4).toNat ∧ (1#4).toNat < start.numChannels ∧ 1#24 ≠ 0 := by decide

theorem witness_AckerrExecutes : ((1 : Chn) ≠ 0 ∨ (0 : BitVec 24) ≠ 0) ∧ ((0 : Chn) ≠ 0 ∨ (1 : BitVec 24) ≠ 0) := by decide

theorem witness_AckdoneExecutes : start.numChannels ≤ (15#4).toNat ∧ (0#4).toNat < (two rxDone rxDone).numChannels
    ∧ 0x100#24 ≠ 0 := by decide


theorem witness_IllegalOpcodesRecorded : 0x9 ≤ ((0x90000000#32).extractLsb' 28 4).toNat
    ∧ 0x9 ≤ ((0xFFFFFFFF#32).extractLsb' 28 4).toNat
    ∧ (0xF#4, Instr.illegalF 0 0) ∈ [(0x9#4, Instr.illegal9 0 0), (0xA#4, .illegalA 0 0), (0xB#4, .illegalB 0 0),
      (0xC#4, .illegalC 0 0), (0xD#4, .illegalD 0 0), (0xE#4, .illegalE 0 0), (0xF#4, .illegalF 0 0)] := by decide

theorem witness_FirstErrorIsKept : (0#32).getLsbD 31 = false ∧ (0x80000091#32).getLsbD 31 = true := by decide

/-- A command that fails, one that succeeds, and the UNBIND of an active channel. -/
theorem witness_FailingCommandWritesOnlyErr :
    (encodeCommand (.nop 0 1) = some 0x00000001 ∧ exec (.nop 0 1) start = .next (after (.nop 0 1) start))
    ∧ (encodeCommand (.stop 0 0) = some 0x40000000 ∧ exec (.stop 0 0) setup = .next (after (.stop 0 0) setup))
    ∧ (encodeCommand (.unbind 0 0) = some 0x50000000 ∧ exec (.unbind 0 0) setup = .next (after (.unbind 0 0) setup)) :=
  ⟨⟨by decide, rfl⟩, ⟨by decide, rfl⟩, ⟨by decide, rfl⟩⟩

theorem witness_CommandWritesOnlyItsChannel :
    encodeCommand (.stop 0 0) = some 0x40000000 ∧ exec (.stop 0 0) setup = .next (after (.stop 0 0) setup)
    ∧ 1 ≠ ((0x40000000#32).extractLsb' 24 4).toNat := ⟨by decide, rfl, by decide⟩

theorem witness_InstructionFrame : exec (.rd 0x014) start = .next (after (.rd 0x014) start)
    ∧ exec (.arm 0 1 2 3) setup = .next (after (.arm 0 1 2 3) setup)
    ∧ exec (.stop 1 0) setup = .next (after (.stop 1 0) setup) := ⟨rfl, rfl, rfl⟩

theorem witness_ReadOnlyWriteIgnored : (0x100#12).toNat = 0x100 + 0x40 * 0 + 4 * 0 ∧ 0 < start.numChannels
    ∧ (0x160#12).toNat = 0x100 + 0x40 * 1 + 4 * 8 ∧ 1 < start.numChannels := by decide

theorem witness_ReadReturnsRegister : 1 < start.numChannels ∧ start.numChannels ≤ 16
    ∧ (0x140#12).toNat = 0x100 + 0x40 * 1 + 0x00 ∧ (0x144#12).toNat = 0x100 + 0x40 * 1 + 0x04
    ∧ (0x148#12).toNat = 0x100 + 0x40 * 1 + 0x08 ∧ (0x14C#12).toNat = 0x100 + 0x40 * 1 + 0x0C
    ∧ (0x150#12).toNat = 0x100 + 0x40 * 1 + 0x10 ∧ (0x154#12).toNat = 0x100 + 0x40 * 1 + 0x14
    ∧ (0x158#12).toNat = 0x100 + 0x40 * 1 + 0x18 ∧ (0x15C#12).toNat = 0x100 + 0x40 * 1 + 0x1C
    ∧ (0x160#12).toNat = 0x100 + 0x40 * 1 + 0x20 := by decide

theorem witness_ArmArmsAndInitengClears : (0#4).toNat < (inPhase .unarmed).numChannels
    ∧ ((inPhase .unarmed).chan 0).phase = .unarmed ∧ (1023#16).toNat < (inPhase .unarmed).params.maxUnits
    ∧ ((inPhase .unarmed).chan 0).cfg = true ∧ ((inPhase .unarmed).chan 0).desc0.valid = true := by decide

/-- A code that is taken, lost by a pending request, lost by a phase, and unbound. -/
theorem witness_TriggerTakenOrCounted : (0x01#8 ≠ 0 ∧ 0x01#8 ∈ setup.params.triggerSet)
    ∧ ((setup.chan 0).cfg = true ∧ (setup.chan 0).trig = 0x01 ∧ (setup.chan 0).phase = .armed ∧ (setup.chan 0).req = false)
    ∧ (setup.chan 1).trig ≠ 0x01 ∧ (start.chan 0).cfg = false
    ∧ ((two { rxArmed with req := true } txArmed).chan 0).req = true
    ∧ ((two rxDone txArmed).chan 0).phase = .completed := by decide

theorem witness_UnboundTriggerChangesNothing : 0xFF#8 ∉ setup.params.triggerSet
    ∧ ∀ c, c < start.numChannels → (start.chan c).cfg = false ∨ (start.chan c).trig ≠ 0x01 := by decide

/-- The first and the last unit of a burst of 10. -/
theorem witness_UnitAddresses : (0 ≤ rxArmed.nm1.toNat ∧ rxArmed.remain.toNat + 0 = rxArmed.nm1.toNat + 1)
    ∧ 9 ≤ rxArmed.nm1.toNat ∧ ({ rxArmed with remain := 1 } : Channel).remain.toNat + 9 = rxArmed.nm1.toNat + 1 := by decide

theorem witness_EngineStepsOnlyWhenEnabled : 1 < setup.numChannels := by decide

/-- A unit from RXDATA to memory that is not the last, and one from memory to TXDATA that is. -/
theorem witness_GrantMovesOneUnit :
    (let s := two { rxArmed with req := true } txArmed;
      s.grantEnabled 0 = true ∧ (s.chan 0).srcAddr = s.params.rxDataAddr ∧ (s.chan 0).dstAddr ≠ s.params.txDataAddr
      ∧ readable s.params (s.chan 0).srcAddr = true ∧ writable s.params (s.chan 0).dstAddr = true ∧ (s.chan 0).remain ≠ 1)
    ∧ (let s := two rxArmed { txArmed with req := true, phase := .inProgress, remain := 1 };
      s.grantEnabled 1 = true ∧ (s.chan 1).srcAddr ≠ s.params.rxDataAddr ∧ (s.chan 1).dstAddr = s.params.txDataAddr
      ∧ readable s.params (s.chan 1).srcAddr = true ∧ writable s.params (s.chan 1).dstAddr = true
      ∧ (s.chan 1).remain = 1) := by decide

/-- V131 and V132: a source that is not readable, and a destination that is not writable after RXDATA has been read. -/
theorem witness_BusErrorFaultsChannel :
    (let s := two rxArmed { txArmed with src := 0x30000000, req := true };
      1 < s.numChannels ∧ s.grantEnabled 1 = true ∧ readable s.params (s.chan 1).srcAddr = false)
    ∧ (let s := two { rxArmed with dst := 0x30000000, req := true } txArmed;
      0 < s.numChannels ∧ s.grantEnabled 0 = true ∧ readable s.params (s.chan 0).srcAddr = true
      ∧ (s.chan 0).srcAddr = s.params.rxDataAddr ∧ writable s.params (s.chan 0).dstAddr = false) := by decide

theorem witness_RearmRestartsBurst : 0 < (two rxDone txArmed).numChannels ∧ ((two rxDone txArmed).chan 0).donePend = true
    ∧ ((two rxDone txArmed).chan 0).cb = true := by decide

/-- A step in a marked run, one that faults a channel, and an ACTB with `ARG_SRC` never written. -/
theorem witness_RunIsMarked :
    (step (faultedState.setAgenda [.trigger 0x02]) = .next (faultedState.triggerStep 0x02)
      ∧ (faultedState.setAgenda [.trigger 0x02]).runFaulted = true)
    ∧ (step (setupThen [.host (wrAccess 0x000 0x50000000)]) = .next (after (.unbind 0 0) setup)
      ∧ (setup.chan 0).phase ≠ .faulted ∧ ((after (.unbind 0 0) setup).chan 0).phase = .faulted)
    ∧ (let s := { start with chans := [rxReady, txReady] };
      exec (.actb 0 false false 0 9) s = .next (after (.actb 0 false false 0 9) s)
      ∧ (s.chan (0#4).toNat).phase ≠ .armed ∧ ((after (.actb 0 false false 0 9) s).chan (0#4).toNat).phase = .armed
      ∧ s.argSrcWritten = false)
    ∧ (exec (.wrArgSrc 7) start = .next (after (.wrArgSrc 7) start) ∧ exec (.wrArgDst 7) start = .next (after (.wrArgDst 7) start)
      ∧ takeEvent .reset setup = .next (afterEvent .reset setup)) :=
  ⟨⟨rfl, by decide⟩, ⟨rfl, by decide, by decide⟩, ⟨rfl, by decide, by decide, by decide⟩, rfl, rfl, rfl⟩

theorem witness_CompletionRouting : Inv quiet ∧ 0 < quiet.numChannels ∧ (quiet.chan 0).ie = false :=
  ⟨inv_quiet, by decide, by decide⟩

theorem witness_ResetValues : 1 < 2 ∧ 15 < 16 := by decide

theorem witness_ResetEngineIsIdle : takeEvent .reset setup = .next (afterEvent .reset setup) := rfl

/-- The first and last address of the engine's block; and, outside it, the addresses on both its sides, an address of memory
and the two data registers. -/
theorem witness_HostStoreThenLoad :
    blockOffset setup.params 0x40000000 = some 0x000 ∧ blockOffset setup.params 0x40000FFF = some 0xFFF
    ∧ blockOffset setup.params 0x3FFFFFFF = none ∧ blockOffset setup.params 0x40001000 = none
    ∧ (blockOffset setup.params 0x20000000 = none ∧ 0x20000000 ≠ setup.params.rxDataAddr)
    ∧ blockOffset setup.params setup.params.rxDataAddr = none
    ∧ (blockOffset setup.params setup.params.txDataAddr = none ∧ setup.params.txDataAddr ≠ setup.params.rxDataAddr) := by
  decide

theorem witness_MemoryFormIsCanonical :
    Memory.wf [(0, 0x11), (0xFFFFFFFF, 0x22)] ∧ Memory.wf (Memory.put [(0xFFFFFFFF, 0x22)] 0 0x11)
    ∧ ∀ k, Memory.get? [(0, 0x11), (0xFFFFFFFF, 0x22)] k = Memory.get? (Memory.put [(0xFFFFFFFF, 0x22)] 0 0x11) k :=
  ⟨by decide, by decide, fun _ => rfl⟩

theorem witness_StepKeepsInvariant : Inv (setupThen [.trigger 0x01])
    ∧ step (setupThen [.trigger 0x01]) = .next (setup.triggerStep 0x01) := ⟨inv_setupThen _, rfl⟩

theorem witness_ResetMeetsInvariant : ParamsOk exampleParams ∧ 2 ≤ 2 ∧ 2 ≤ 16 ∧ 2 ≤ 16 ∧ 16 ≤ 16 :=
  ⟨paramsOk_example, by decide⟩

theorem witness_PhasesFollowTransitionTable : Inv (setupThen [.host (wrAccess 0x000 0x40000000)])
    ∧ step (setupThen [.host (wrAccess 0x000 0x40000000)]) = .next (after (.stop 0 0) setup)
    ∧ (setupThen [.host (wrAccess 0x000 0x40000000)]).headEvent ≠ .reset ∧ 0 < setup.numChannels :=
  ⟨inv_setupThen _, rfl, by decide, by decide⟩

theorem witness_TerminalPhasesStay :
    (Inv (quiet.setAgenda [.trigger 0x02]) ∧ step (quiet.setAgenda [.trigger 0x02]) = .next (quiet.triggerStep 0x02)
      ∧ (quiet.setAgenda [.trigger 0x02]).headEvent ≠ .reset ∧ 1 < quiet.numChannels ∧ (quiet.chan 1).phase = .stopped)
    ∧ (Inv (faultedState.setAgenda [.trigger 0x01])
      ∧ step (faultedState.setAgenda [.trigger 0x01]) = .next (faultedState.triggerStep 0x01)
      ∧ (faultedState.setAgenda [.trigger 0x01]).headEvent ≠ .reset ∧ 0 < faultedState.numChannels
      ∧ (faultedState.chan 0).phase = .faulted) :=
  ⟨⟨inv_setAgenda _ _ inv_quiet, rfl, by decide, by decide, by decide⟩,
    ⟨inv_setAgenda _ _ inv_faultedState, rfl, by decide, by decide, by decide⟩⟩

/-- A step that activates a channel, and one that does not. -/
theorem witness_BurstFieldsKeptUntilActivation :
    (let s := (inPhase .completed).setAgenda [.host (wrAccess 0x000 0x30000900)];
      step s = .next (after (.actb 0 false false 0 9) (inPhase .completed)) ∧ s.headEvent ≠ .reset ∧ 0 < s.numChannels)
    ∧ step (setupThen [.grant 0]) = .next (setup.grantStep 0) ∧ (setupThen [.grant 0]).headEvent ≠ .reset :=
  ⟨⟨rfl, by decide, by decide⟩, rfl, by decide⟩

/-- A step that configures a channel, and one that does not. -/
theorem witness_ConfigurationKeptByOtherSteps :
    (let s := start.setAgenda [.host (wrAccess 0x000 0x10000016)];
      step s = .next (after (.cfgch 0 false true true false 1 0) start) ∧ s.headEvent ≠ .reset ∧ 0 < s.numChannels)
    ∧ step (setupThen [.grant 0]) = .next (setup.grantStep 0) ∧ (setupThen [.grant 0]).headEvent ≠ .reset :=
  ⟨⟨rfl, by decide, by decide⟩, rfl, by decide⟩

/-- A trigger that is lost, so that OVR moves. -/
theorem witness_CountersCountEvents : Inv (quiet.setAgenda [.trigger 0x01])
    ∧ step (quiet.setAgenda [.trigger 0x01]) = .next (quiet.triggerStep 0x01)
    ∧ (quiet.setAgenda [.trigger 0x01]).headEvent ≠ .reset ∧ 0 < quiet.numChannels
    ∧ ((quiet.triggerStep 0x01).chan 0).ovr = 1 :=
  ⟨inv_setAgenda _ _ inv_quiet, rfl, by decide, by decide, by decide⟩

/-- A host store of memory, one of TXDATA, and a unit. -/
theorem witness_MemoryChangesOnlyByStores :
    step (setupThen [.hostStore 0x20000000 0xAB]) = .next (setup.setMem (setup.mem.store 0x20000000 0xAB))
    ∧ step (setupThen [.hostStore 0x50000004 0xAB])
      = .next ((setup.setMem (setup.mem.store 0x50000004 0xAB)).pushOut 0xAB)
    ∧ step (setupThen [.grant 0]) = .next (setup.grantStep 0) := ⟨rfl, rfl, rfl⟩

theorem witness_ReceiveBurstFillsBuffer : Inv setup ∧ 0 < setup.numChannels ∧ 0x01#8 ≠ 0
    ∧ ((setup.chan 0).phase = .armed ∧ (setup.chan 0).req = false ∧ (setup.chan 0).trig = 0x01
      ∧ (setup.chan 0).src = setup.params.rxDataAddr ∧ (setup.chan 0).desc0.sinc = false
      ∧ (setup.chan 0).desc0.dinc = true)
    ∧ (∀ k, k < 10 → writable setup.params ((setup.chan 0).dst + BitVec.ofNat 32 k) = true
      ∧ (setup.chan 0).dst + BitVec.ofNat 32 k ≠ setup.params.txDataAddr) ∧ (setup.chan 0).nm1.toNat + 1 = 10
    ∧ ∀ d, d < setup.numChannels → d ≠ 0 →
        (setup.chan d).req = false ∧ ((setup.chan d).cfg = false ∨ (setup.chan d).trig ≠ 0x01) :=
  ⟨inv_setup, by decide, by decide, by decide, by decide, by decide, by decide⟩

theorem witness_TransmitBurstSendsBuffer : Inv setup ∧ 1 < setup.numChannels ∧ 0x02#8 ≠ 0
    ∧ ((setup.chan 1).phase = .armed ∧ (setup.chan 1).req = false ∧ (setup.chan 1).trig = 0x02
      ∧ (setup.chan 1).dst = setup.params.txDataAddr ∧ (setup.chan 1).desc0.sinc = true
      ∧ (setup.chan 1).desc0.dinc = false)
    ∧ (∀ k, k < 10 → readable setup.params ((setup.chan 1).src + BitVec.ofNat 32 k) = true
      ∧ (setup.chan 1).src + BitVec.ofNat 32 k ≠ setup.params.rxDataAddr) ∧ (setup.chan 1).nm1.toNat + 1 = 10
    ∧ ∀ d, d < setup.numChannels → d ≠ 1 →
        (setup.chan d).req = false ∧ ((setup.chan d).cfg = false ∨ (setup.chan d).trig ≠ 0x02) :=
  ⟨inv_setup, by decide, by decide, by decide, by decide, by decide, by decide⟩

/-- Both channels at the start of a burst, both on its last unit, and one with a source that is not readable. -/
theorem witness_LockstepByteTimeLosesNothing : ∀ s ∈ [setup, lastUnits, badSource],
    Inv (s.setAgenda (lockstepByteTime 0 1)) ∧ 0 < s.numChannels ∧ 1 < s.numChannels ∧ (0 : Nat) ≠ 1
    ∧ (s.setAgenda (lockstepByteTime 0 1)).agenda = lockstepByteTime 0 1 ++ []
    ∧ (∀ c, c < s.numChannels → (s.chan c).req = false ∧ ((s.chan c).phase = .armed ∨ (s.chan c).phase = .inProgress)
      ∧ (s.chan c).ie = true ∧ (s.chan c).cb = true)
    ∧ (s.chan 0).trig = 0x01 ∧ (s.chan 1).trig = 0x02
    ∧ ∀ c, c < s.numChannels → c ≠ 0 → c ≠ 1 →
        (s.chan c).cfg = false ∨ ((s.chan c).trig ≠ 0x01 ∧ (s.chan c).trig ≠ 0x02) := by
  simp only [List.forall_mem_cons, List.not_mem_nil, false_imp_iff, implies_true, and_true]
  refine ⟨⟨inv_setAgenda _ _ inv_setup, ?_⟩, ⟨inv_setAgenda _ _ inv_lastUnits, ?_⟩, ⟨inv_setAgenda _ _ inv_badSource, ?_⟩⟩
  all_goals decide

/-- The three cases of its conclusion. -/
theorem witness_LockstepByteTimeLosesNothing_cases :
    (readable setup.params (setup.chan 1).srcAddr = true ∧ writable setup.params (setup.chan 1).dstAddr = true
      ∧ (setup.chan 1).remain ≠ 1)
    ∧ (readable lastUnits.params (lastUnits.chan 0).srcAddr = true
      ∧ writable lastUnits.params (lastUnits.chan 0).dstAddr = true ∧ (lastUnits.chan 0).remain = 1)
    ∧ readable badSource.params (badSource.chan 1).srcAddr = false := by decide

end Sys2Proof.Tests
end

/-! The two cases of a step, one equation each, by the agenda (00_scope.md R5, log entry 6). -/

namespace Sys2Proof.Machine

theorem step_of_agenda_cons {s : State} {e : Event} {es : List Event} (h : s.agenda = e :: es) :
    step s = takeEvent e (s.setAgenda es) := by
  simp only [step, h]

theorem step_of_agenda_nil {s : State} (h : s.agenda = []) :
    step s = takeEvent (Config.nextEvent s.drawn) s.countDraw := by
  simp only [step, h]

/-- Settles O8: the two equations of a step, one for each form of the agenda. -/
theorem stepTakesHeadEvent : Obligations.StepTakesHeadEvent :=
  fun _ => ⟨fun _ _ => step_of_agenda_cons, step_of_agenda_nil⟩

end Sys2Proof.Machine

/-! The invariant of the machine: each update of a channel keeps what it says of a channel (10_state.md R26, log entry 21),
then each update of the state keeps the whole of it, so every command, every instruction and every event does. -/

namespace Sys2Proof.Machine

/-- What the invariant says of one channel. -/
structure ChannelOk (p : Params) (c : Channel) : Prop extends ChannelR26 p c, ChannelExtra p c

section
variable {p : Params} {c : Channel}

/-- The unit count of a burst is in 17 bits what it is as a number. -/
theorem toNat_units (nm1 : BitVec 16) : (nm1.setWidth 17 + 1).toNat = nm1.toNat + 1 := by
  simp [BitVec.toNat_add]
  omega

theorem ChannelOk.reset (hp : ParamsOk p) : ChannelOk p Channel.reset where
  item1 := nofun
  item2 := nofun
  item3 := nofun
  item4armed := nofun
  item4prog := nofun
  item5 := nofun
  item6 := fun h => absurd rfl h
  completed_valid := nofun
  burst_zero := rfl
  slot_zero := rfl
  size0_zero := rfl
  size1_zero := rfl
  trig_admitted := hp.trigger_none

theorem ChannelOk.withoutDonePend (h : ChannelOk p c) : ChannelOk p { c with donePend := false } :=
  { h with item2 := nofun }

theorem ChannelOk.withoutCallback (h : ChannelOk p c) : ChannelOk p { c with cb := false } :=
  { h with }

theorem ChannelOk.withOvr (h : ChannelOk p c) (n : Word) : ChannelOk p { c with ovr := n } :=
  { h with }

theorem ChannelOk.configured (h : ChannelOk p c) (prio ie cb : Bool) {trig : BitVec 8} (ht : trig ∈ p.triggerSet) :
    ChannelOk p { c with
      prio := prio, ie := ie, cb := cb, trig := trig, cfg := true, donePend := c.donePend && ie } :=
  { h with
    item2 := by simpa using fun hd hi => ⟨(h.item2 hd).1, hi⟩
    item3 := fun ha => ⟨rfl, (h.item3 ha).2⟩
    item6 := fun _ => .inl rfl
    completed_valid := fun hc => ⟨rfl, (h.completed_valid hc).2⟩
    trig_admitted := ht }

theorem ChannelOk.withDesc0 (h : ChannelOk p c) (sinc dinc : Bool) (arb : BitVec 4) (prot : BitVec 3) :
    ChannelOk p { c with desc0 := ⟨true, sinc, dinc, 0, arb, prot⟩ } :=
  { h with
    item3 := fun ha => have ⟨hcfg, _, hr⟩ := h.item3 ha; ⟨hcfg, rfl, hr⟩
    completed_valid := fun hc => have ⟨hcfg, _, hn⟩ := h.completed_valid hc; ⟨hcfg, rfl, hn⟩
    size0_zero := rfl }

theorem ChannelOk.withDesc1 (h : ChannelOk p c) (sinc dinc : Bool) (arb : BitVec 4) (prot : BitVec 3) :
    ChannelOk p { c with desc1 := ⟨true, sinc, dinc, 0, arb, prot⟩ } :=
  { h with size1_zero := rfl }

theorem ChannelOk.stopped (h : ChannelOk p c) :
    ChannelOk p { c with phase := .stopped, req := false, donePend := false } :=
  { h with
    item1 := nofun, item2 := nofun, item3 := by simp, item4armed := nofun, item4prog := nofun, item5 := nofun
    item6 := fun _ => .inr rfl
    completed_valid := nofun }

/-- Only an active channel is faulted, so it has no completion pending and was configured (R26 items 2, 3). -/
theorem ChannelOk.faulted (h : ChannelOk p c) (ha : c.phase = .armed ∨ c.phase = .inProgress) :
    ChannelOk p { c with phase := .faulted, req := false } :=
  { h with
    item1 := nofun
    item2 := fun hd => by simp [(h.item2 hd).1] at ha
    item3 := by simp
    item4armed := nofun, item4prog := nofun, item5 := nofun
    item6 := fun _ => .inl (h.item3 ha).1
    completed_valid := nofun }

/-- A burst may start on a channel that is configured and whose unit count is admitted. -/
theorem ChannelExtra.rearm (h : ChannelExtra p c) (hcfg : c.cfg = true) (hv : c.desc0.valid = true)
    (hn : c.nm1.toNat < p.maxUnits) : ChannelOk p c.rearm := by
  have hu : c.units.toNat = c.nm1.toNat + 1 := toNat_units c.nm1
  exact { h with
    item1 := nofun, item2 := nofun
    item3 := fun _ => ⟨hcfg, hv, by simp [Channel.rearm, hu], by simp [Channel.rearm, hu], hn⟩
    item4armed := fun _ => hu
    item4prog := nofun, item5 := nofun
    item6 := fun _ => .inl hcfg
    completed_valid := nofun }

/-- ACTB latches the burst's fields and then starts the burst as a re-arm does. -/
theorem ChannelOk.activate (h : ChannelOk p c) (src dst : Word) (nm1 : BitVec 16) (hcfg : c.cfg = true)
    (hv : c.desc0.valid = true) (hn : nm1.toNat < p.maxUnits) : ChannelOk p (c.activate src dst nm1) :=
  ChannelExtra.rearm (c := { c with src := src, dst := dst, nm1 := nm1, burst := false, slot := false })
    { h with completed_valid := fun _ => ⟨hcfg, hv, hn⟩, burst_zero := rfl, slot_zero := rfl } hcfg hv hn

theorem ChannelOk.rearm (h : ChannelOk p c) (hd : c.donePend = true) : ChannelOk p c.rearm :=
  have ⟨hcfg, hv, hn⟩ := h.completed_valid (h.item2 hd).1
  h.toChannelExtra.rearm hcfg hv hn

theorem Phase.active_iff (x : Phase) : x.active = true ↔ x = .armed ∨ x = .inProgress := by
  cases x <;> simp [Phase.active]

theorem ChannelOk.trigger (h : ChannelOk p c) (t : BitVec 8) : ChannelOk p (c.trigger t) := by
  unfold Channel.trigger
  split
  · split
    · next ha =>
      exact { h with item1 := fun _ => c.phase.active_iff.1 (Bool.and_eq_true_iff.1 ha).1 }
    · exact h.withOvr _
  · exact h

/-- The last unit completes the channel; any other leaves at least one (R26 items 3, 4). -/
theorem ChannelOk.afterUnit (h : ChannelOk p c) (hr : c.req = true) : ChannelOk p c.afterUnit := by
  have ha := h.item1 hr
  obtain ⟨hcfg, hv, hpos, hle, hn⟩ := h.item3 ha
  by_cases h1 : c.remain = 1
  · rw [c.afterUnit_last h1]
    exact { h with
      item1 := nofun
      item2 := fun hd => ⟨rfl, (Bool.or_eq_true_iff.1 hd).elim id fun hd => (h.item2 hd).2⟩
      item3 := by simp
      item4armed := nofun, item4prog := nofun
      item5 := fun _ => rfl
      item6 := fun _ => .inl hcfg
      completed_valid := fun _ => ⟨hcfg, hv, hn⟩ }
  · rw [c.afterUnit_more h1]
    have hne : c.remain.toNat ≠ 1 := fun e => h1 (BitVec.eq_of_toNat_eq e)
    have hsub : (c.remain - 1).toNat = c.remain.toNat - 1 := by
      rw [BitVec.toNat_sub_of_le (by simpa [BitVec.le_def] using hpos)]; rfl
    have hr : 1 ≤ (c.remain - 1).toNat ∧ (c.remain - 1).toNat ≤ c.nm1.toNat := by omega
    exact { h with
      item1 := nofun
      item2 := fun hd => by simp [(h.item2 hd).1] at ha
      item3 := fun _ => ⟨hcfg, hv, hr.1, Nat.le_succ_of_le hr.2, hn⟩
      item4armed := nofun
      item4prog := fun _ => hr
      item5 := nofun
      item6 := fun _ => .inl hcfg
      completed_valid := nofun }

end

/-! ### What the updates of a channel leave alone -/

theorem Channel.trigger_phase (t : BitVec 8) (c : Channel) : (c.trigger t).phase = c.phase := by
  unfold Channel.trigger
  split
  · split <;> rfl
  · rfl

theorem Channel.afterUnit_phase_ne_faulted (c : Channel) : c.afterUnit.phase ≠ .faulted := by
  by_cases h : c.remain = 1
  · rw [c.afterUnit_last h]; nofun
  · rw [c.afterUnit_more h]; nofun

@[simp] theorem State.afterRead_params (s : State) (a : Word) : (s.afterRead a).params = s.params := by
  rw [s.afterRead_eq]

@[simp] theorem State.chan_afterRead (s : State) (a : Word) (c : Nat) : (s.afterRead a).chan c = s.chan c := by
  rw [s.afterRead_eq]; rfl

@[simp] theorem State.writeByte_params (s : State) (a : Word) (v : Byte) : (s.writeByte a v).params = s.params := by
  rw [s.writeByte_eq]

/-! ### The error record -/

theorem ErrOk.zero : ErrOk 0 := by
  constructor <;> decide

/-- The fields of a fresh record that the invariant speaks of (60_exceptions.md R202). -/
theorem errWord_fields (code : ErrCode) (op : BitVec 4) (eng : Bool) (ch : Chn) :
    (errWord code op eng ch).extractLsb' 0 4 = code.bits ∧ (errWord code op eng ch).getLsbD 8 = eng
    ∧ (errWord code op eng ch).extractLsb' 9 3 = 0 ∧ (errWord code op eng ch).extractLsb' 16 14 = 0
    ∧ (errWord code op eng ch).getLsbD 31 = true := by
  simp (disch := decide) [errWord, -BitVec.getLsbD_eq_getElem, -Nat.reduceAdd, BitVec.getLsbD_append,
    BitVec.extractLsb'_append_eq_of_le, BitVec.extractLsb'_append_eq_of_add_le]

/-- A fresh record, of BUS_ERROR exactly if the engine made it. -/
theorem ErrOk.errWord (code : ErrCode) (op : BitVec 4) (eng : Bool) (ch : Chn) (h : eng = (code == .busError)) :
    ErrOk (errWord code op eng ch) := by
  obtain ⟨hcode, heng, hlow, hhigh, hvalid⟩ := errWord_fields code op eng ch
  refine ⟨fun hz => ?_, hlow, hhigh, ?_, ?_⟩
  · rw [hvalid] at hz; nomatch hz
  · rw [hcode]; cases code <;> decide
  · rw [heng, hcode, h]; cases code <;> rfl

/-- Setting LOST, bit 30, in a valid record. -/
theorem ErrOk.withLost {e : Word} (h : ErrOk e) (hv : e.getLsbD 31 = true) : ErrOk (e ||| 0x40000000) := by
  have field (start len : Nat) (hl : (0x40000000#32).extractLsb' start len = 0) :
      (e ||| 0x40000000).extractLsb' start len = e.extractLsb' start len := by
    rw [BitVec.extractLsb'_or]; simp [hl]
  refine ⟨fun hz => ?_, ?_, ?_, ?_, ?_⟩
  · rw [BitVec.getLsbD_or, hv] at hz; nomatch hz
  · rw [field 9 3 rfl, h.reserved_low]
  · rw [field 16 14 rfl, h.reserved_high]
  · rw [field 0 4 rfl]; exact h.code_named
  · rw [field 0 4 rfl, ← h.eng_bus]; simp

theorem ErrOk.recordErr {e : Word} (he : ErrOk e) (code : ErrCode) (op : BitVec 4) (eng : Bool) (ch : Chn)
    (h : eng = (code == .busError)) : ErrOk (recordErr e code op eng ch) := by
  cases hv : e.getLsbD 31
  · rw [recordErr_of_clear _ _ _ _ _ hv]; exact .errWord code op eng ch h
  · rw [recordErr_of_valid _ _ _ _ _ hv]; exact he.withLost hv

/-! ### The state -/

section
variable {s t : State}

theorem Inv.channelOk (h : Inv s) (c : Nat) : ChannelOk s.params (s.chan c) := by
  by_cases hc : c < s.numChannels
  · exact { h.r26 _ (s.chan_mem c hc), h.extra _ (s.chan_mem c hc) with }
  · rw [s.chan_of_le c (Nat.le_of_not_lt hc)]
    exact .reset h.params

theorem Inv.chan_faulted_marked (h : Inv s) (c : Nat) (hf : (s.chan c).phase = .faulted) : s.runFaulted = true := by
  by_cases hc : c < s.numChannels
  · exact h.faulted_marked _ (s.chan_mem c hc) hf
  · rw [s.chan_of_le c (Nat.le_of_not_lt hc)] at hf
    nomatch hf

/-- The invariant of a state whose memory is kept, from what holds of each of its channels and of its error record. -/
theorem Inv.of_chans (h : Inv s) (hp : t.params = s.params) (hm : t.mem = s.mem) (hl : t.numChannels = s.numChannels)
    (hc : ∀ x ∈ t.chans, ChannelOk s.params x ∧ (x.phase = .faulted → t.runFaulted = true)) (he : ErrOk t.err) : Inv t where
  channels_ge := hl ▸ h.channels_ge
  channels_le := hl ▸ h.channels_le
  params := hp ▸ h.params
  r26 x hx := hp ▸ (hc x hx).1.toChannelR26
  extra x hx := hp ▸ (hc x hx).1.toChannelExtra
  err := he
  mem_wf := hm ▸ h.mem_wf
  mem_clear := hp ▸ hm ▸ h.mem_clear
  faulted_marked x hx := (hc x hx).2

/-- The invariant reads the parameters, the channels, the error record, the memory and the mark of the run only. -/
theorem Inv.congr (h : Inv s) (hp : t.params = s.params) (hm : t.mem = s.mem) (hc : t.chans = s.chans) (he : ErrOk t.err)
    (hf : s.runFaulted = true → t.runFaulted = true) : Inv t :=
  h.of_chans hp hm (congrArg List.length hc) (fun x hx => by
    rw [hc] at hx
    exact ⟨{ h.r26 x hx, h.extra x hx with }, fun hx' => hf (h.faulted_marked x hx hx')⟩) he

theorem Inv.popped (h : Inv s) : Inv s.popped := by
  rw [s.popped_eq]; exact h.congr rfl rfl rfl h.err id

theorem Inv.setArgSrc (h : Inv s) (v : Word) : Inv (s.setArgSrc v) := h.congr rfl rfl rfl h.err id

theorem Inv.setArgDst (h : Inv s) (v : Word) : Inv (s.setArgDst v) := h.congr rfl rfl rfl h.err id

theorem Inv.setHostResp (h : Inv s) (r : HostResp) : Inv (s.setHostResp r) := h.congr rfl rfl rfl h.err id

theorem Inv.markFaultedIf (h : Inv s) (b : Bool) : Inv (s.markFaultedIf b) :=
  h.congr rfl rfl rfl h.err fun hf => by simp [hf]

theorem Inv.setErr (h : Inv s) {e : Word} (he : ErrOk e) : Inv (s.setErr e) := h.congr rfl rfl rfl he id

theorem Inv.record (h : Inv s) (code : ErrCode) (op : BitVec 4) (eng : Bool) (ch : Chn) (hb : eng = (code == .busError)) :
    Inv (s.record code op eng ch) :=
  h.setErr (h.err.recordErr code op eng ch hb)

theorem Inv.afterRead (h : Inv s) (a : Word) : Inv (s.afterRead a) := by
  rw [s.afterRead_eq]; exact h.congr rfl rfl rfl h.err id

/-- A byte written outside the engine's block. -/
theorem Inv.writeByte (h : Inv s) {a : Word} (v : Byte) (ha : blockOffset s.params a = none) : Inv (s.writeByte a v) := by
  rw [s.writeByte_eq]
  exact { h with
    mem_wf := s.mem.store_wf a v h.mem_wf
    mem_clear := fun x hx => by
      rcases s.mem.mem_put _ _ _ hx with rfl | hx
      · simpa using ha
      · exact h.mem_clear x hx }

theorem Inv.setChan (h : Inv s) (c : Nat) {x : Channel} (hx : ChannelOk s.params x)
    (hf : x.phase = .faulted → s.runFaulted = true) : Inv (s.setChan c x) :=
  h.of_chans rfl rfl (by simp) (fun y hy => by
    rcases List.mem_or_eq_of_mem_set hy with hy | rfl
    · exact ⟨{ h.r26 y hy, h.extra y hy with }, h.faulted_marked y hy⟩
    · exact ⟨hx, hf⟩) h.err

theorem Inv.mapChans (h : Inv s) {f : Channel → Channel} (hf : ∀ x, ChannelOk s.params x → ChannelOk s.params (f x))
    (hp : ∀ x, (f x).phase = x.phase) : Inv (s.mapChans f) :=
  h.of_chans rfl rfl (by simp) (fun y hy => by
    obtain ⟨x, hx, rfl⟩ := List.mem_map.1 hy
    exact ⟨hf x { h.r26 x hx, h.extra x hx with }, fun hy => h.faulted_marked x hx (hp x ▸ hy)⟩) h.err

theorem Inv.resetStep (h : Inv s) : Inv s.resetStep :=
  h.of_chans rfl rfl (by simp) (fun y hy => by
    obtain ⟨x, hx, rfl⟩ := List.mem_map.1 hy
    exact ⟨.reset h.params, nofun⟩) .zero

/-- The fault of a channel, written with its record and its mark: the mark holds from the start as well. -/
theorem Inv.faultChan (h : Inv s) (c : Nat) (code : ErrCode) (op : BitVec 4) (eng : Bool) (ch : Chn)
    (hb : eng = (code == .busError)) {x : Channel} (hx : ChannelOk s.params x) :
    Inv (((s.setChan c x).record code op eng ch).markFaultedIf true) :=
  ((h.markFaultedIf true).record code op eng ch hb).setChan c hx fun _ => Bool.or_true _

/-! ### Commands, instructions, events -/

/-- A command keeps the invariant. -/
theorem CommandEffect.inv {i : Instr} (he : CommandEffect s i t) (h : Inv s) : Inv t := by
  have marked (c : Nat) : (s.chan c).phase = .faulted → s.runFaulted = true := h.chan_faulted_marked c
  cases he with
  | error _ code op ch hcode => exact h.record code op false ch (by simpa using hcode)
  | nop => exact h
  | cfgch ch prio ie cb trig _ _ _ _ ht => exact h.setChan _ ((h.channelOk _).configured prio ie cb ht) (marked _)
  | cfgdesc ch slot sinc dinc arb prot =>
    cases slot
    · exact h.setChan _ ((h.channelOk _).withDesc0 sinc dinc arb prot) (marked _)
    · exact h.setChan _ ((h.channelOk _).withDesc1 sinc dinc arb prot) (marked _)
  | actb ch nm1 _ _ _ _ hn hcfg hv =>
    exact (h.setChan _ ((h.channelOk _).activate s.argSrc s.argDst nm1 hcfg hv hn) nofun).markFaultedIf _
  | stopKept => exact h
  | stop ch => exact h.setChan _ (h.channelOk _).stopped nofun
  | unbind ch => exact h.setChan _ (h.channelOk _).withoutCallback (marked _)
  | violation ch _ ha =>
    exact h.faultChan _ _ _ _ _ rfl
      ((h.channelOk _).faulted ((Phase.active_iff _).1 ha)).withoutCallback.withoutDonePend
  | clrovr ch => exact h.setChan _ ((h.channelOk _).withOvr 0) (marked _)
  | ackerr => exact h.setErr .zero
  | ackdone ch => exact h.setChan _ (h.channelOk _).withoutDonePend (marked _)

/-- An instruction keeps the invariant. -/
theorem InstrEffect.inv {i : Instr} (he : InstrEffect s i t) (h : Inv s) : Inv t := by
  induction he with
  | command _ _ _ _ he => exact he.inv h
  | wrCmd _ _ he => exact he.inv h
  | wrArgSrc v => exact h.setArgSrc v
  | wrArgDst v => exact h.setArgDst v
  | readOnly => exact h
  | writable _ _ _ _ _ _ ih => exact ih
  | rd => exact h.setHostResp _
  | accessFault => exact (h.setHostResp _).markFaultedIf true
  | arm _ src dst _ _ he => exact he.inv ((h.setArgSrc src).setArgDst dst)
  | initeng => exact h.setErr .zero

/-- Only a channel with its request pending is granted. -/
theorem State.req_of_grantEnabled {c : Nat} (hg : s.grantEnabled c = true) : (s.chan c).req = true :=
  ((s.grantEnabled_iff c).1 hg).1

/-- Only a channel with a completion pending is re-armed. -/
theorem State.donePend_of_rearmEnabled {c : Nat} (hg : s.rearmEnabled c = true) : (s.chan c).donePend = true :=
  (Bool.and_eq_true_iff.1 hg).1

theorem Inv.busError (h : Inv s) {c : Nat} (hr : (s.chan c).req = true) : Inv (s.busError c) :=
  h.faultChan c _ _ _ _ rfl ((h.channelOk c).faulted ((h.channelOk c).item1 hr))

/-- A granted unit keeps the invariant, whether it moves a byte or ends in a bus error. -/
theorem Inv.unitStep (h : Inv s) {c : Nat} (hr : (s.chan c).req = true) : Inv (s.unitStep c) := by
  rcases s.unitStep_cases c with ⟨_, e⟩ | ⟨_, _, e⟩ | ⟨_, hw, e⟩ <;> rw [e]
  · exact h.busError hr
  · exact (h.afterRead _).busError (by simpa using hr)
  · have hb : blockOffset s.params (s.chan c).dstAddr = none := writable_outside_block _ h.params _ hw
    refine ((h.afterRead _).writeByte _ (by simpa using hb)).setChan c ?_ ?_
    · simpa using (h.channelOk c).afterUnit hr
    · exact fun hf => absurd hf (Channel.afterUnit_phase_ne_faulted _)

theorem Inv.grantStep (h : Inv s) (c : Nat) : Inv (s.grantStep c) := by
  rcases s.grantStep_cases c with ⟨_, e⟩ | ⟨hg, e⟩ <;> rw [e]
  · exact h
  · exact h.unitStep (State.req_of_grantEnabled hg)

theorem Inv.rearmStep (h : Inv s) (c : Nat) : Inv (s.rearmStep c) := by
  rcases s.rearmStep_cases c with ⟨_, e⟩ | ⟨hg, e⟩ <;> rw [e]
  · exact h
  · exact h.setChan c ((h.channelOk c).rearm (State.donePend_of_rearmEnabled hg)) nofun

theorem Inv.triggerStep (h : Inv s) (code : BitVec 8) : Inv (s.triggerStep code) := by
  rcases s.triggerStep_cases code with ⟨_, e⟩ | ⟨_, e⟩ <;> rw [e]
  · exact h
  · exact h.mapChans (fun _ hx => hx.trigger code) (Channel.trigger_phase code)

theorem Inv.of_hostAccessFault (h : Inv s) {off : BitVec 12} (ht : hostAccessFault off s = .next t) : Inv t := by
  cases ht
  exact (h.setHostResp _).markFaultedIf true

/-- Every event keeps the invariant. -/
theorem Inv.of_takeEvent (h : Inv s) (e : Event) (ht : takeEvent e s = .next t) : Inv t := by
  cases e with
  | host a => exact (exec_next _ s t ht).inv h
  | hostStore a v =>
    rcases hostStoreStep_cases a v s with ⟨off, _, e⟩ | ⟨hb, e⟩
    · exact h.of_hostAccessFault (e.symm.trans ht)
    · cases e.symm.trans ht
      exact h.writeByte v hb
  | hostLoad a =>
    rcases hostLoadStep_cases a s with ⟨off, _, e⟩ | ⟨_, e⟩
    · exact h.of_hostAccessFault (e.symm.trans ht)
    · cases e.symm.trans ht
      exact (h.afterRead a).setHostResp _
  | trigger code => cases ht; exact h.triggerStep code
  | grant c => cases ht; exact h.grantStep c
  | rearm c => cases ht; exact h.rearmStep c
  | reset => cases ht; exact h.resetStep

theorem Inv.initial {p : Params} (hp : ParamsOk p) (n : Nat) (h2 : 2 ≤ n) (h16 : n ≤ 16) : Inv (State.initial p n) where
  channels_ge := by simpa [State.numChannels, State.initial] using h2
  channels_le := by simpa [State.numChannels, State.initial] using h16
  params := hp
  r26 _ hx := (List.eq_of_mem_replicate hx) ▸ (ChannelOk.reset hp).toChannelR26
  extra _ hx := (List.eq_of_mem_replicate hx) ▸ (ChannelOk.reset hp).toChannelExtra
  err := .zero
  mem_wf := State.reset_mem_wf
  mem_clear := nofun
  faulted_marked _ hx hf := nomatch (List.eq_of_mem_replicate hx) ▸ hf

end

/-- Settles O49: each event keeps the invariant, and so does taking it off the agenda. -/
theorem stepKeepsInvariant : Obligations.StepKeepsInvariant :=
  fun s _ h ht => h.popped.of_takeEvent s.headEvent (step_eq s ▸ ht)

/-- Settles O50: every channel is at reset, and the parameters of the examples are admitted ones. -/
theorem resetMeetsInvariant : Obligations.ResetMeetsInvariant :=
  ⟨fun _ n hp => Inv.initial hp n, Inv.initial Tests.paramsOk_example 2 (by decide) (by decide)⟩

end Sys2Proof.Machine

/-! The register words and what a read returns (10_state.md R24, R31 to R33); the machine at reset (R35). -/

namespace Sys2Proof.Machine

/-- The `PHASE` field as a number (10_state.md R24). -/
theorem Phase.toNat_bits (x : Phase) : x.bits.toNat = (match x with
    | .unarmed => 0 | .armed => 1 | .inProgress => 2 | .completed => 3 | .stopped => 4 | .faulted => 5) := by
  cases x <;> rfl

/-- Settles O30: each field is the part of the concatenation that starts at its bit. -/
theorem statusWordFields : Obligations.StatusWordFields := by
  intro c
  refine ⟨?_, ?_⟩
  · rw [Channel.statusWord, BitVec.extractLsb'_append_eq_right]
    exact c.phase.toNat_bits
  · simp (disch := decide) [Channel.statusWord, -BitVec.getLsbD_eq_getElem, -Nat.reduceAdd, BitVec.getLsbD_append,
      BitVec.extractLsb'_append_eq_of_le, BitVec.extractLsb'_append_eq_of_add_le]

/-- Settles O31: each field is the part of the concatenation that starts at its bit. -/
theorem descWordFields : Obligations.DescWordFields := by
  intro d
  simp (disch := decide) [Desc.word, -BitVec.getLsbD_eq_getElem, -Nat.reduceAdd, BitVec.getLsbD_append,
    BitVec.extractLsb'_append_eq_of_le, BitVec.extractLsb'_append_eq_of_add_le]

/-- The fields of `CH_CNT` (10_state.md R31). -/
theorem Channel.cntWord_fields (c : Channel) :
    c.cntWord.extractLsb' 0 16 = c.nm1 ∧ c.cntWord.getLsbD 16 = c.burst ∧ c.cntWord.getLsbD 17 = c.slot
    ∧ c.cntWord.extractLsb' 18 14 = 0 := by
  simp (disch := decide) [Channel.cntWord, -BitVec.getLsbD_eq_getElem, -Nat.reduceAdd, BitVec.getLsbD_append,
    BitVec.extractLsb'_append_eq_of_le, BitVec.extractLsb'_append_eq_of_add_le]

/-- The fields of `INFO` (10_state.md R31). -/
theorem infoWord_fields (maxUnits n : Nat) :
    (infoWord maxUnits n).extractLsb' 0 5 = BitVec.ofNat 5 n ∧ (infoWord maxUnits n).extractLsb' 5 11 = 0
    ∧ (infoWord maxUnits n).extractLsb' 16 16 = BitVec.ofNat 16 (maxUnits - 1) := by
  simp (disch := decide) [infoWord, -Nat.reduceAdd, BitVec.extractLsb'_append_eq_of_le,
    BitVec.extractLsb'_append_eq_of_add_le]

/-- A read of a mapped offset answers the register's word and changes nothing else (42_status.md R147). -/
theorem exec_rd_of_regAt {s : State} {off : BitVec 12} {r : Reg} (h : regAt s.numChannels off = some r) :
    exec (.rd off) s = .next { s with hostResp := .word (s.regWord r) } := by
  simp only [exec, execRd, h]
  rfl

/-- A read of the register at offset `4 * k` of a channel's block. -/
theorem exec_rd_chan {s : State} {off : BitVec 12} {c k : Nat} {r : ChanReg} (hc : c < s.numChannels)
    (hr : chanRegAt (4 * k) = some r) (hk : k ≤ 8) (ho : off.toNat = 0x100 + 0x40 * c + 4 * k) :
    exec (.rd off) s = .next { s with hostResp := .word ((s.chan c).regWord r) } :=
  exec_rd_of_regAt (regAt_chan _ c k off r hr hc hk ho)

/-- Settles O29: the register at each offset, then the fields of its word. -/
theorem readReturnsRegister : Obligations.ReadReturnsRegister := by
  intro s off
  refine ⟨?_, ?_, ?_, ?_, ?_, ?_, fun c hc => ⟨?_, ?_, ?_, ?_, ?_, ?_, ?_, ?_, ?_⟩⟩
  · rintro rfl; exact exec_rd_of_regAt (r := .cmd) rfl
  · rintro rfl; exact exec_rd_of_regAt (r := .argSrc) rfl
  · rintro rfl; exact exec_rd_of_regAt (r := .argDst) rfl
  · rintro rfl; exact exec_rd_of_regAt (r := .err) rfl
  · rintro rfl
    refine ⟨_, exec_rd_of_regAt (r := .donePend) rfl, fun hn j => ?_⟩
    exact donePendWord_getLsbD s.chans (Nat.le_trans hn (by decide)) j
  · rintro rfl
    exact ⟨_, exec_rd_of_regAt (r := .info) rfl, infoWord_fields _ _⟩
  · exact exec_rd_chan (k := 0) (r := .status) hc rfl (by decide)
  · exact exec_rd_chan (k := 1) (r := .desc) hc rfl (by decide)
  · exact exec_rd_chan (k := 2) (r := .adesc) hc rfl (by decide)
  · exact exec_rd_chan (k := 3) (r := .src) hc rfl (by decide)
  · exact exec_rd_chan (k := 4) (r := .dst) hc rfl (by decide)
  · exact fun ho => ⟨_, exec_rd_chan (k := 5) (r := .cnt) hc rfl (by decide) ho, (s.chan c).cntWord_fields⟩
  · refine fun ho => ⟨_, exec_rd_chan (k := 6) (r := .remain) hc rfl (by decide) ho, ?_⟩
    exact BitVec.toNat_setWidth_of_le (by decide)
  · exact exec_rd_chan (k := 7) (r := .ovr) hc rfl (by decide)
  · exact exec_rd_chan (k := 8) (r := .done) hc rfl (by decide)

theorem State.numChannels_initial (p : Params) (n : Nat) : (State.initial p n).numChannels = n :=
  List.length_replicate

/-- Every channel of the machine at reset is at reset. -/
theorem State.chan_initial (p : Params) (n c : Nat) : (State.initial p n).chan c = Channel.reset := by
  simp only [State.chan, State.initial, List.getElem?_replicate]
  split <;> rfl

/-- Settles O44: every channel is `Channel.reset`, whose fields are those of R35. -/
theorem resetValues : Obligations.ResetValues := by
  intro p n c
  refine ⟨State.numChannels_initial p n, rfl, fun _ => ?_⟩
  rw [State.chan_initial]
  simp [Channel.reset, Desc.reset]

end Sys2Proof.Machine

/-! A step seen from one channel: everything it can do, and so which steps write the burst fields, the configuration and the
counters (10_state.md R21 to R25). -/

namespace Sys2Proof.Machine

/-- The event the step from `s` takes is the host's write of command `i` to CMD (42_status.md R143). -/
def State.Writes (s : State) (i : Instr) : Prop :=
  ∃ (a : HostAccess) (v : Word),
    s.headEvent = .host a ∧ decodeAccess s.numChannels a = .wrCmd v ∧ decodeCommand v = i

/-- Everything a step other than reset can make of channel `c`. -/
inductive ChannelStep (s : State) (c : Nat) : Channel → Prop where
  | kept : ChannelStep s c (s.chan c)
  | cfgch (ch : Chn) (prio ie cb : Bool) (trig : BitVec 8) (hc : ch.toNat = c)
      (hw : s.Writes (.cfgch ch prio ie cb false trig 0)) :
      ChannelStep s c { s.chan c with
        prio := prio, ie := ie, cb := cb, trig := trig, cfg := true, donePend := (s.chan c).donePend && ie }
  | cfgdesc (ch : Chn) (slot sinc dinc : Bool) (arb : BitVec 4) (prot : BitVec 3) (hc : ch.toNat = c)
      (hw : s.Writes (.cfgdesc ch slot sinc dinc false 0 0 arb prot 0)) :
      ChannelStep s c (if slot then { s.chan c with desc1 := ⟨true, sinc, dinc, 0, arb, prot⟩ }
        else { s.chan c with desc0 := ⟨true, sinc, dinc, 0, arb, prot⟩ })
  | actb (ch : Chn) (nm1 : BitVec 16) (hc : ch.toNat = c) (hw : s.Writes (.actb ch false false 0 nm1))
      (hp : (s.chan c).phase = .unarmed ∨ (s.chan c).phase = .completed) :
      ChannelStep s c ((s.chan c).activate s.argSrc s.argDst nm1)
  | stop (ch : Chn) (hc : ch.toNat = c) (hw : s.Writes (.stop ch 0))
      (hf : (s.chan c).phase ≠ .faulted) (hs : (s.chan c).phase ≠ .stopped) :
      ChannelStep s c { s.chan c with phase := .stopped, req := false, donePend := false }
  | unbind (ch : Chn) (hc : ch.toNat = c) (hw : s.Writes (.unbind ch 0)) : ChannelStep s c { s.chan c with cb := false }
  | violation (ch : Chn) (hc : ch.toNat = c) (hw : s.Writes (.unbind ch 0))
      (hp : (s.chan c).phase = .armed ∨ (s.chan c).phase = .inProgress) :
      ChannelStep s c { s.chan c with phase := .faulted, cb := false, req := false, donePend := false }
  | clrovr (ch : Chn) (hc : ch.toNat = c) (hw : s.Writes (.clrovr ch 0)) : ChannelStep s c { s.chan c with ovr := 0 }
  | ackdone (ch : Chn) (hc : ch.toNat = c) (hw : s.Writes (.ackdone ch 0)) :
      ChannelStep s c { s.chan c with donePend := false }
  | trigger (code : BitVec 8) (he : s.headEvent = .trigger code) : ChannelStep s c ((s.chan c).trigger code)
  | busError (he : s.headEvent = .grant c) (hg : s.grantEnabled c = true) :
      ChannelStep s c { s.chan c with phase := .faulted, req := false }
  | unit (he : s.headEvent = .grant c) (hg : s.grantEnabled c = true) : ChannelStep s c (s.chan c).afterUnit
  | rearm (he : s.headEvent = .rearm c) (hg : s.rearmEnabled c = true) : ChannelStep s c (s.chan c).rearm

/-- What a step other than reset made of channel `c`. -/
theorem step_channel {s t : State} {c : Nat} (ht : step s = .next t) (hr : s.headEvent ≠ .reset) (hc : c < s.numChannels) :
    ChannelStep s c (t.chan c) := by
  have hstep : ChannelEffect { s with agenda := s.popped.agenda, drawn := s.popped.drawn } c s.headEvent (t.chan c) :=
    takeEvent_channel _ t _ hr (s.popped_eq ▸ step_eq s ▸ ht) c hc
  generalize he : s.headEvent = e at hstep
  generalize t.chan c = x at hstep ⊢
  cases hstep with
  | kept => exact .kept
  | command a v u ha hcmd =>
    have hw : s.Writes (decodeCommand v) := ⟨a, v, he, ha, rfl⟩
    rcases hcmd.chan c hc with e | ⟨ch, _, _, _, _, hch, hi, e⟩ | ⟨ch, _, _, _, _, _, hch, hi, e⟩ |
      ⟨ch, _, hch, hi, hp, e⟩ | ⟨ch, hch, hi, hf, hs, e⟩ | ⟨ch, hch, hi, e⟩ | ⟨ch, hch, hi, hp, e⟩ | ⟨ch, hch, hi, e⟩ |
      ⟨ch, hch, hi, e⟩ <;> rw [e]
    · exact .kept
    · exact .cfgch ch _ _ _ _ hch (hi ▸ hw)
    · exact .cfgdesc ch _ _ _ _ _ hch (hi ▸ hw)
    · exact .actb ch _ hch (hi ▸ hw) hp
    · exact .stop ch hch (hi ▸ hw) hf hs
    · exact .unbind ch hch (hi ▸ hw)
    · exact .violation ch hch (hi ▸ hw) hp
    · exact .clrovr ch hch (hi ▸ hw)
    · exact .ackdone ch hch (hi ▸ hw)
  | trigger code => exact .trigger code he
  | busError hg => exact .busError he hg
  | unit hg => exact .unit he hg
  | rearm hg => exact .rearm he hg

/-- A trigger writes REQ and OVR only (43_engine.md R161). -/
theorem Channel.trigger_eq (t : BitVec 8) (c : Channel) :
    c.trigger t = { c with req := (c.trigger t).req, ovr := (c.trigger t).ovr } := by
  unfold Channel.trigger
  split
  · split <;> rfl
  · rfl

/-- A unit writes the progress of its channel only (43_engine.md R166, R168, R169). -/
theorem Channel.afterUnit_eq (c : Channel) :
    c.afterUnit = { c with
      req := false, remain := c.remain - 1, phase := c.afterUnit.phase, done := c.afterUnit.done
      donePend := c.afterUnit.donePend } := by
  unfold Channel.afterUnit
  dsimp only
  split <;> rfl

/-- Settles O53: of all that a step can do to a channel, only ACTB writes these fields. -/
theorem burstFieldsKeptUntilActivation : Obligations.BurstFieldsKeptUntilActivation := by
  intro s t c ht hr hc
  have hx := step_channel ht hr hc
  generalize t.chan c = x at hx ⊢
  cases hx with
  | actb ch nm1 hch hw =>
    obtain ⟨a, v, he, ha, hv⟩ := hw
    exact .inr ⟨a, v, ch, nm1, he, ha, hv, hch⟩
  | cfgdesc ch slot => left; cases slot <;> exact ⟨rfl, rfl, rfl, rfl, rfl⟩
  | trigger code => left; rw [Channel.trigger_eq]; exact ⟨rfl, rfl, rfl, rfl, rfl⟩
  | unit => left; rw [Channel.afterUnit_eq]; exact ⟨rfl, rfl, rfl, rfl, rfl⟩
  | _ => left; exact ⟨rfl, rfl, rfl, rfl, rfl⟩

/-- Settles O54: each command writes the part of the configuration it is for, and no other step writes any. -/
theorem configurationKeptByOtherSteps : Obligations.ConfigurationKeptByOtherSteps := by
  intro s t c ht hr hc
  have hx := step_channel ht hr hc
  generalize t.chan c = x at hx ⊢
  cases hx with
  | cfgch ch prio ie cb trig hch hw =>
    exact ⟨.inr ⟨ch, prio, ie, cb, trig, hch, hw⟩, .inr (.inl ⟨ch, prio, ie, cb, trig, hch, hw⟩), .inl ⟨rfl, rfl⟩⟩
  | cfgdesc ch slot sinc dinc arb prot hch hw =>
    refine ⟨.inl ?_, .inl ?_, .inr ⟨ch, slot, sinc, dinc, arb, prot, hch, hw⟩⟩ <;> cases slot <;> simp
  | unbind ch hch hw => exact ⟨.inl ⟨rfl, rfl, rfl, rfl⟩, .inr (.inr ⟨ch, hch, hw⟩), .inl ⟨rfl, rfl⟩⟩
  | violation ch hch hw => exact ⟨.inl ⟨rfl, rfl, rfl, rfl⟩, .inr (.inr ⟨ch, hch, hw⟩), .inl ⟨rfl, rfl⟩⟩
  | trigger code => rw [Channel.trigger_eq]; exact ⟨.inl ⟨rfl, rfl, rfl, rfl⟩, .inl rfl, .inl ⟨rfl, rfl⟩⟩
  | unit => rw [Channel.afterUnit_eq]; exact ⟨.inl ⟨rfl, rfl, rfl, rfl⟩, .inl rfl, .inl ⟨rfl, rfl⟩⟩
  | _ => exact ⟨.inl ⟨rfl, rfl, rfl, rfl⟩, .inl rfl, .inl ⟨rfl, rfl⟩⟩

/-- A unit of a channel that is not completed counts in DONE exactly if it completes the channel (43_engine.md R168). -/
theorem Channel.afterUnit_done (c : Channel) (h : c.phase ≠ .completed) :
    c.afterUnit.done = c.done + (if c.afterUnit.phase = .completed ∧ c.phase ≠ .completed then 1 else 0) := by
  by_cases h1 : c.remain = 1
  · rw [c.afterUnit_last h1]; simp [h]
  · rw [c.afterUnit_more h1]; simp

/-- The saturating successor keeps its argument or is one more. -/
theorem satSucc_cases (x : Word) : satSucc x = x ∨ x.toNat + 1 = (satSucc x).toNat := by
  rw [← BitVec.toNat_inj, satSucc_eq, BitVec.toNat_ofNat]
  omega

/-- A trigger moves OVR, by one, only of a channel bound to its code, and not at the saturated count (43_engine.md R161). -/
theorem Channel.trigger_ovr (t : BitVec 8) (c : Channel) :
    (c.trigger t).ovr = c.ovr ∨ (c.ovr.toNat + 1 = (c.trigger t).ovr.toNat ∧ c.trig = t) := by
  by_cases hb : c.boundTo t = true
  · obtain ⟨_, ht⟩ : c.cfg = true ∧ c.trig = t := by simpa [Channel.boundTo] using hb
    by_cases hl : c.phase.active = false ∨ c.req = true
    · rw [c.trigger_lost t hb hl]
      exact (satSucc_cases c.ovr).imp_right (⟨·, ht⟩)
    · obtain ⟨ha, hr⟩ : c.phase.active = true ∧ c.req = false := by simpa using hl
      rw [c.trigger_taken t hb ha hr]
      exact .inl rfl
  · rw [c.trigger_unbound t (by simpa using hb)]
    exact .inl rfl

/-- DONE counts the completions, given that a completed channel is not granted (10_state.md R26 item 1). -/
theorem ChannelStep.done {s : State} {c : Nat} {x : Channel} (h : ChannelStep s c x) (hs : Inv s) :
    x.done = (s.chan c).done + (if x.phase = .completed ∧ (s.chan c).phase ≠ .completed then 1 else 0) := by
  cases h with
  | cfgdesc ch slot => cases slot <;> simp
  | trigger code => rw [Channel.trigger_eq]; simp
  | unit _ hg =>
    refine Channel.afterUnit_done _ fun hp => ?_
    have ha := (hs.channelOk c).item1 (State.req_of_grantEnabled hg)
    simp [hp] at ha
  | _ => simp [Channel.activate, Channel.rearm]

/-- OVR is cleared by CLROVR and moves up by a trigger of the channel's code. -/
theorem ChannelStep.ovr {s : State} {c : Nat} {x : Channel} (h : ChannelStep s c x) :
    x.ovr = (s.chan c).ovr ∨ (x.ovr = 0 ∧ ∃ ch, s.Writes (.clrovr ch 0) ∧ ch.toNat = c)
    ∨ ((s.chan c).ovr.toNat + 1 = x.ovr.toNat ∧ s.headEvent = .trigger (s.chan c).trig) := by
  cases h with
  | cfgdesc ch slot => cases slot <;> exact .inl rfl
  | clrovr ch hch hw => exact .inr (.inl ⟨rfl, ch, hw, hch⟩)
  | trigger code he =>
    rcases (s.chan c).trigger_ovr code with h | ⟨h, rfl⟩
    · exact .inl h
    · exact .inr (.inr ⟨h, he⟩)
  | unit => rw [Channel.afterUnit_eq]; exact .inl rfl
  | _ => exact .inl rfl

/-- Settles O55: by what a step does to DONE and to OVR of one channel. -/
theorem countersCountEvents : Obligations.CountersCountEvents := by
  intro s t c hs ht hr hc
  have hx := step_channel ht hr hc
  refine ⟨hx.done hs, hx.ovr.imp_right (.imp_left ?_)⟩
  rintro ⟨h0, ch, ⟨a, v, he, ha, hv⟩, hch⟩
  exact ⟨h0, a, v, he, ha, ch, hv, hch⟩

end Sys2Proof.Machine

/-! Memory (20_memory.md): the addresses of a unit (R68), the host's byte stores and loads (R62, R67, R72), the canonical form
(log entry 4), and the only steps that store (R63, R64). -/

namespace Sys2Proof.Machine

/-- The unit index counts the units done (10_state.md R27). -/
theorem Channel.toNat_unitIndex {c : Channel} {k : Nat} (h : c.remain.toNat + k = c.nm1.toNat + 1) :
    c.unitIndex.toNat = k := by
  have hu : c.units.toNat = c.nm1.toNat + 1 := toNat_units c.nm1
  rw [Channel.unitIndex, BitVec.toNat_sub_of_le (by rw [BitVec.le_def]; omega)]
  omega

/-- A base address moved by a unit index if it increments, else kept, as a number. -/
theorem toNat_add_unitIndex (base : Word) (inc : Bool) (k : BitVec 17) :
    (base + (if inc then k.setWidth 32 else 0)).toNat = (base.toNat + if inc then k.toNat else 0) % 2 ^ 32 := by
  rw [BitVec.toNat_add]
  cases inc <;> simp

/-- Settles O37: the unit index is `k`, and the 32-bit sum wraps. -/
theorem unitAddresses : Obligations.UnitAddresses := by
  intro c k _ h
  rw [Channel.srcAddr, Channel.dstAddr, toNat_add_unitIndex, toNat_add_unitIndex, Channel.toNat_unitIndex h]
  exact ⟨rfl, rfl⟩

/-! ### The canonical form -/

/-- No byte is written below every listed address. -/
theorem Memory.get?_eq_none_of_lt {m : Memory} {k : Nat} (h : ∀ x ∈ m, k < x.1) : Memory.get? m k = none := by
  induction m with
  | nil => rfl
  | cons x m ih =>
    rw [List.forall_mem_cons] at h
    rw [Memory.get?, if_neg (Nat.ne_of_lt h.1), ih h.2]

/-- A byte is written at the first listed address. -/
theorem Memory.get?_cons_self (k : Nat) (v : Byte) (m : Memory) : Memory.get? ((k, v) :: m) k = some v :=
  if_pos rfl

/-- A memory with rising addresses that holds the first byte another lists begins at or below that byte's address. -/
theorem Memory.head_le_of_get?_eq {k k' : Nat} {v v' : Byte} {m m' : Memory}
    (hm' : ((k', v') :: m').Pairwise (fun x y => x.1 < y.1))
    (h : Memory.get? ((k, v) :: m) k = Memory.get? ((k', v') :: m') k) : k' ≤ k := by
  by_contra hlt
  have hall : ∀ x ∈ (k', v') :: m', k < x.1 := by
    rw [List.forall_mem_cons]
    exact ⟨by omega, fun x hx => by have := List.rel_of_pairwise_cons hm' hx; omega⟩
  rw [Memory.get?_cons_self, Memory.get?_eq_none_of_lt hall] at h
  nomatch h

/-- Memories with rising addresses that hold the same bytes are equal, cell by cell. -/
theorem Memory.ext_get? {m m' : Memory} (hm : m.Pairwise (fun x y => x.1 < y.1))
    (hm' : m'.Pairwise (fun x y => x.1 < y.1)) (h : ∀ k, Memory.get? m k = Memory.get? m' k) : m = m' := by
  induction m generalizing m' with
  | nil =>
    cases m' with
    | nil => rfl
    | cons y m' => exact nomatch (h y.1).trans (Memory.get?_cons_self y.1 y.2 m')
  | cons x m ih =>
    obtain ⟨k, v⟩ := x
    cases m' with
    | nil => exact nomatch (h k).symm.trans (Memory.get?_cons_self k v m)
    | cons y m' =>
      obtain ⟨k', v'⟩ := y
      obtain rfl : k = k' :=
        Nat.le_antisymm (Memory.head_le_of_get?_eq hm (h k').symm) (Memory.head_le_of_get?_eq hm' (h k))
      obtain rfl : v = v' := by simpa [Memory.get?] using h k
      rw [List.pairwise_cons] at hm hm'
      rw [ih hm.2 hm'.2 fun j => ?_]
      by_cases hj : j = k
      · rw [hj, Memory.get?_eq_none_of_lt hm.1, Memory.get?_eq_none_of_lt hm'.1]
      · simpa [Memory.get?, hj] using h j

/-- Settles O48: the canonical form lists the written bytes in rising order, which leaves one list for them. -/
theorem memoryFormIsCanonical : Obligations.MemoryFormIsCanonical :=
  fun _ _ hm hm' h => Memory.ext_get? hm.1 hm'.1 h

/-! ### The host's byte stores and loads -/

/-- A byte store in the engine's block (42_status.md R145). -/
theorem hostStoreStep_of_block {s : State} {a : Word} {off : BitVec 12} (v : Byte) (h : blockOffset s.params a = some off) :
    hostStoreStep a v s = hostAccessFault off s := by
  simp only [hostStoreStep, h]

/-- A byte load in the engine's block (42_status.md R145). -/
theorem hostLoadStep_of_block {s : State} {a : Word} {off : BitVec 12} (h : blockOffset s.params a = some off) :
    hostLoadStep a s = hostAccessFault off s := by
  simp only [hostLoadStep, h]

/-- A byte store outside the engine's block. -/
theorem hostStoreStep_of_none {s : State} {a : Word} (v : Byte) (h : blockOffset s.params a = none) :
    hostStoreStep a v s = .next (s.writeByte a v) := by
  simp only [hostStoreStep, h]

/-- A byte load outside the engine's block: what it answers, and what a read of RXDATA consumes. -/
theorem hostLoadStep_of_none {s : State} {a : Word} (h : blockOffset s.params a = none) :
    hostLoadStep a s = .next { s with
      hostResp := .byte (s.readByte a)
      rxReads := s.rxReads + (if a = s.params.rxDataAddr then 1 else 0) } := by
  simp only [hostLoadStep, h, State.afterRead_eq, State.setHostResp]

/-- A written byte is read back from anywhere but RXDATA (20_memory.md R67, R72). -/
theorem State.readByte_writeByte_same (s : State) {a : Word} (v : Byte) (h : a ≠ s.params.rxDataAddr) :
    (s.writeByte a v).readByte a = v := by
  rw [State.readByte_plain _ _ (by simpa using h), State.writeByte_eq, Memory.load_store_same]

/-- A load of a byte just stored, anywhere but at RXDATA, gives it and changes nothing else. -/
theorem hostLoadStep_writeByte {s : State} {a : Word} (v : Byte) (hb : blockOffset s.params a = none)
    (hr : a ≠ s.params.rxDataAddr) :
    hostLoadStep a (s.writeByte a v) = .next { s.writeByte a v with hostResp := .byte v } := by
  have hr' : a ≠ (s.writeByte a v).params.rxDataAddr := by rwa [State.writeByte_params]
  rw [hostLoadStep_of_none (by simpa using hb), State.readByte_writeByte_same s v hr, if_neg hr']
  rfl

/-- Settles O47: a HostAccessFault in the block, and outside it the byte access that store and load make. -/
theorem hostStoreThenLoad : Obligations.HostStoreThenLoad := by
  intro s a v
  refine ⟨fun off hb => ⟨?_, ?_⟩, fun hb => ⟨hostLoadStep_of_none hb, s.writeByte a v, hostStoreStep_of_none v hb,
    ?_, fun b hba => ?_, hostLoadStep_writeByte v hb⟩⟩
  · exact (hostStoreStep_of_block v hb).trans (hostAccessFault_next off s)
  · exact (hostLoadStep_of_block hb).trans (hostAccessFault_next off s)
  · rw [State.writeByte_eq]
  · rw [State.writeByte_eq, Memory.load_store_ne _ _ _ _ hba]

/-! ### The steps that store -/

/-- `t` has the parameters, the number of channels, the memory and the bytes sent of `s`. -/
structure SameMemory (s t : State) : Prop where
  params : t.params = s.params
  numChannels : t.numChannels = s.numChannels
  mem : t.mem = s.mem
  out : t.out = s.out

theorem SameMemory.refl (s : State) : SameMemory s s := ⟨rfl, rfl, rfl, rfl⟩

theorem SameMemory.setChan (s : State) (c : Nat) (x : Channel) : SameMemory s (s.setChan c x) :=
  ⟨rfl, s.numChannels_setChan c x, rfl, rfl⟩

theorem SameMemory.busError (s : State) (c : Nat) : SameMemory s (s.busError c) :=
  ⟨rfl, s.numChannels_setChan c _, rfl, rfl⟩

theorem SameMemory.afterRead (s : State) (a : Word) : SameMemory s (s.afterRead a) := by
  rw [s.afterRead_eq]; exact ⟨rfl, rfl, rfl, rfl⟩

theorem SameMemory.trans {s t u : State} (h : SameMemory s t) (h' : SameMemory t u) : SameMemory s u :=
  ⟨h'.params.trans h.params, h'.numChannels.trans h.numChannels, h'.mem.trans h.mem, h'.out.trans h.out⟩

/-- The same byte written to the same memory gives the same memory. -/
theorem SameMemory.writeByte {s t : State} (h : SameMemory s t) (a : Word) (v : Byte) :
    SameMemory (s.writeByte a v) (t.writeByte a v) := by
  rw [s.writeByte_eq, t.writeByte_eq]
  exact ⟨h.params, h.numChannels, by simp only [h.mem], by simp only [h.params, h.out]⟩

/-- No command stores. -/
theorem CommandEffect.sameMemory {s t : State} {i : Instr} (h : CommandEffect s i t) : SameMemory s t := by
  cases h with
  | error | nop | stopKept | ackerr => exact ⟨rfl, rfl, rfl, rfl⟩
  | cfgch | cfgdesc | actb | stop | unbind | violation | clrovr | ackdone =>
    exact ⟨rfl, State.numChannels_setChan .., rfl, rfl⟩

/-- No instruction stores. -/
theorem InstrEffect.sameMemory {s t : State} {i : Instr} (h : InstrEffect s i t) : SameMemory s t := by
  induction h with
  | command _ _ _ _ h => exact h.sameMemory
  | wrCmd _ _ h => exact h.sameMemory
  | writable _ _ _ _ _ _ ih => exact ih
  | arm _ src dst _ _ h =>
    have hs : SameMemory s ((s.setArgSrc src).setArgDst dst) := ⟨rfl, rfl, rfl, rfl⟩
    exact hs.trans h.sameMemory
  | wrArgSrc | wrArgDst | readOnly | rd | accessFault | initeng => exact ⟨rfl, rfl, rfl, rfl⟩

/-- A HostAccessFault stores nothing. -/
theorem SameMemory.of_hostAccessFault {s t : State} {off : BitVec 12} (h : hostAccessFault off s = .next t) :
    SameMemory s t := by
  cases h; exact ⟨rfl, rfl, rfl, rfl⟩

/-- What an event that answers `t` stored: nothing, or one byte, by an enabled grant or by a host store. -/
inductive StoreEffect (s t : State) : Event → Prop where
  | nothing (e : Event) (h : SameMemory s t) : StoreEffect s t e
  | unit (c : Nat) (v : Byte) (hg : s.grantEnabled c = true) (h : SameMemory (s.writeByte (s.chan c).dstAddr v) t) :
      StoreEffect s t (.grant c)
  | hostStore (a : Word) (v : Byte) (h : SameMemory (s.writeByte a v) t) : StoreEffect s t (.hostStore a v)

/-- An enabled grant stores nothing if it ends in a bus error, else the unit's byte (43_engine.md R166, R170). -/
theorem StoreEffect.of_unitStep {s : State} {c : Nat} (hg : s.grantEnabled c = true) :
    StoreEffect s (s.unitStep c) (.grant c) := by
  rcases s.unitStep_cases c with ⟨_, e⟩ | ⟨_, _, e⟩ | ⟨_, _, e⟩ <;> rw [e]
  · exact .nothing _ (.busError s c)
  · exact .nothing _ ((SameMemory.afterRead s _).trans (.busError _ c))
  · exact .unit c _ hg (((SameMemory.afterRead s _).writeByte _ _).trans (.setChan _ c _))

/-- Every event stores what `StoreEffect` says. -/
theorem takeEvent_store {s t : State} {e : Event} (h : takeEvent e s = .next t) : StoreEffect s t e := by
  cases e with
  | host a => exact .nothing _ (exec_next _ s t h).sameMemory
  | hostStore a v =>
    rcases hostStoreStep_cases a v s with ⟨off, _, e⟩ | ⟨_, e⟩
    · exact .nothing _ (.of_hostAccessFault (e.symm.trans h))
    · cases e.symm.trans h
      exact .hostStore a v (.refl _)
  | hostLoad a =>
    rcases hostLoadStep_cases a s with ⟨off, _, e⟩ | ⟨_, e⟩
    · exact .nothing _ (.of_hostAccessFault (e.symm.trans h))
    · cases e.symm.trans h
      exact .nothing _ ((SameMemory.afterRead s a).trans ⟨rfl, rfl, rfl, rfl⟩)
  | trigger code =>
    cases h
    rcases s.triggerStep_cases code with ⟨_, e⟩ | ⟨_, e⟩ <;> rw [e]
    · exact .nothing _ (.refl s)
    · exact .nothing _ ⟨rfl, s.numChannels_mapChans _, rfl, rfl⟩
  | grant c =>
    cases h
    rcases s.grantStep_cases c with ⟨_, e⟩ | ⟨hg, e⟩ <;> rw [e]
    · exact .nothing _ (.refl s)
    · exact .of_unitStep hg
  | rearm c =>
    cases h
    rcases s.rearmStep_cases c with ⟨_, e⟩ | ⟨_, e⟩ <;> rw [e]
    · exact .nothing _ (.refl s)
    · exact .nothing _ (.setChan s c _)
  | reset => cases h; exact .nothing _ ⟨rfl, s.numChannels_resetStep, rfl, rfl⟩

/-- Every step stores what `StoreEffect` says of the event it takes. -/
theorem step_store {s t : State} (h : step s = .next t) : StoreEffect s t s.headEvent := by
  have hs : SameMemory s { s with agenda := s.popped.agenda, drawn := s.popped.drawn } := ⟨rfl, rfl, rfl, rfl⟩
  have hstore : StoreEffect { s with agenda := s.popped.agenda, drawn := s.popped.drawn } t s.headEvent :=
    takeEvent_store (s.popped_eq ▸ step_eq s ▸ h)
  generalize s.headEvent = e at hstore ⊢
  cases hstore with
  | nothing _ h => exact .nothing _ (hs.trans h)
  | unit c v hg h => exact .unit c v hg ((hs.writeByte _ v).trans h)
  | hostStore a v h => exact .hostStore a v ((hs.writeByte a v).trans h)

section
variable {s t : State} {a : Word} {v : Byte} (h : SameMemory (s.writeByte a v) t)
include h

/-- Storing a byte keeps the parameters and the number of channels. -/
theorem SameMemory.fixed_of_writeByte : t.params = s.params ∧ t.numChannels = s.numChannels := by
  rw [s.writeByte_eq] at h
  exact ⟨h.params, h.numChannels⟩

/-- Storing a byte leaves every other byte (20_memory.md R63, R64). -/
theorem SameMemory.load_ne_of_writeByte {b : Word} (hb : b ≠ a) : t.mem.load b = s.mem.load b := by
  rw [h.mem, s.writeByte_eq, Memory.load_store_ne _ _ _ _ hb]

/-- Storing a byte sends it at TXDATA, and nothing anywhere else (20_memory.md R67). -/
theorem SameMemory.out_of_writeByte : t.out = s.out ∨ (a = s.params.txDataAddr ∧ t.out = s.out ++ [v]) := by
  rw [h.out, s.writeByte_eq]
  by_cases ha : a = s.params.txDataAddr
  · exact .inr ⟨ha, if_pos ha⟩
  · exact .inl (if_neg ha)

end

/-- Settles O56: by what a step stores. -/
theorem memoryChangesOnlyByStores : Obligations.MemoryChangesOnlyByStores := by
  intro s t ht
  have hstore := step_store ht
  generalize s.headEvent = e at hstore ⊢
  cases hstore with
  | nothing _ h => exact ⟨h.params, h.numChannels, .inl fun a => by rw [h.mem], .inl h.out⟩
  | unit c v hg h =>
    obtain ⟨hp, hn⟩ := h.fixed_of_writeByte
    exact ⟨hp, hn, .inr (.inl ⟨c, rfl, hg, fun _ => h.load_ne_of_writeByte⟩),
      h.out_of_writeByte.imp_right fun ⟨ha, ho⟩ => .inl ⟨c, v, rfl, ha, ho⟩⟩
  | hostStore a v h =>
    obtain ⟨hp, hn⟩ := h.fixed_of_writeByte
    refine ⟨hp, hn, .inr (.inr ⟨a, v, rfl, fun _ => h.load_ne_of_writeByte⟩),
      h.out_of_writeByte.imp_right fun ⟨ha, ho⟩ => .inr ⟨v, ?_, ho⟩⟩
    rw [ha]

end Sys2Proof.Machine

/-! Command words (30_encoding.md R80 to R93): a word is its OP, CH and PAY fields side by side, so decoding and encoding undo
each other. -/

namespace Sys2Proof.Machine

section
variable (op : BitVec 4) (ch : Chn) (pay : BitVec 24)

/-- The OP field of a word (30_encoding.md R80). -/
theorem op_of_word : (op ++ ch ++ pay).extractLsb' 28 4 = op := by
  simp (disch := decide) [-Nat.reduceAdd, BitVec.extractLsb'_append_eq_of_le]

/-- The CH field of a word (30_encoding.md R80). -/
theorem ch_of_word : (op ++ ch ++ pay).extractLsb' 24 4 = ch := by
  simp (disch := decide) [-Nat.reduceAdd, BitVec.extractLsb'_append_eq_of_le, BitVec.extractLsb'_append_eq_of_add_le]

/-- A payload field of a word is the field of PAY at the same bits (30_encoding.md R80). -/
theorem payField_of_word {i n : Nat} (h : i + n ≤ 24) : (op ++ ch ++ pay).extractLsb' i n = pay.extractLsb' i n :=
  BitVec.extractLsb'_append_eq_of_add_le h

/-- A payload bit of a word is the bit of PAY of the same number (30_encoding.md R80). -/
theorem payBit_of_word {i : Nat} (h : i < 24) : (op ++ ch ++ pay).getLsbD i = pay.getLsbD i := by
  rw [BitVec.getLsbD_append, if_pos h]

end

/-- Settles O5: the fields of the word are the fields it was put together from. -/
theorem decodeFollowsTables : Obligations.DecodeFollowsTables := by
  intro ch pay
  simp (disch := decide) only [decodeCommand, op_of_word, ch_of_word, payField_of_word, payBit_of_word,
    BitVec.extractLsb'_eq_self, BitVec.reduceToNat, and_self]

/-- Settles O6: each word is decoded. -/
theorem commandWordsDecode : Obligations.CommandWordsDecode := by
  unfold Obligations.CommandWordsDecode
  decide

/-- Settles O1: each field of the command is read back from the bits it was written to. -/
theorem commandEncodeDecodeAgree : Obligations.CommandEncodeDecodeAgree := by
  intro i w h
  cases i with
  | nop ch pay | stop ch pay | unbind ch pay | clrovr ch pay | ackerr ch pay | ackdone ch pay | illegal9 ch pay
  | illegalA ch pay | illegalB ch pay | illegalC ch pay | illegalD ch pay | illegalE ch pay | illegalF ch pay =>
    cases h
    simp only [decodeCommand, op_of_word, ch_of_word, BitVec.extractLsb'_append_eq_right]
    rfl
  | cfgch | cfgdesc | actb =>
    cases h
    simp (disch := decide) [decodeCommand, -Nat.reduceAdd, -BitVec.getLsbD_eq_getElem, BitVec.getLsbD_append,
      BitVec.extractLsb'_append_eq_of_le, BitVec.extractLsb'_append_eq_of_add_le]
  | wrCmd | wrArgSrc | wrArgDst | wrReadOnly | rd | hostAccessFault | arm | initeng => nomatch h

/-- A bit of a word is a field of its own. -/
theorem ofBool_getLsbD (w : Word) (i : Nat) : BitVec.ofBool (w.getLsbD i) = w.extractLsb' i 1 := by
  rw [BitVec.getLsbD_eq_extractLsb']
  exact (by decide : ∀ x : BitVec 1, BitVec.ofBool (x == 1#1) = x) _

/-- The OP field of a word, from its number. -/
theorem op_eq_of_toNat {w : Word} {op : Nat} (h : (w.extractLsb' 28 4).toNat = op) :
    BitVec.ofNat 4 op = w.extractLsb' 28 4 := by
  rw [← h, BitVec.ofNat_toNat, BitVec.setWidth_eq]

/-- Settles O2: the fields that were read from the word lie side by side, so they join to the word. -/
theorem commandDecodeEncodeAgree : Obligations.CommandDecodeEncodeAgree := by
  intro w
  have hlt := (w.extractLsb' 28 4).isLt
  unfold decodeCommand
  split
  case' h_16 => have h : (w.extractLsb' 28 4).toNat = 0xF := by grind
  all_goals
    rename (w.extractLsb' 28 4).toNat = _ => h
    simp only [encodeCommand, ofBool_getLsbD]
    rw [op_eq_of_toNat h]
    simp (disch := decide) only [BitVec.extractLsb'_append_extractLsb'_eq_extractLsb', BitVec.extractLsb'_eq_self]

end Sys2Proof.Machine

/-! Host accesses (30_encoding.md R92): the form an access has, one equation per form, and the access each form is performed
by. -/

namespace Sys2Proof.Machine

section
variable {n : Nat}

/-- The three registers the host can write stand at one offset each (10_state.md R31). -/
theorem off_of_regAt {off : BitVec 12} {r : Reg} (h : regAt n off = some r) :
    (r = .cmd → off = 0x000) ∧ (r = .argSrc → off = 0x004) ∧ (r = .argDst → off = 0x008) := by
  unfold regAt at h
  split at h
  · cases h; exact ⟨fun _ => BitVec.eq_of_toNat_eq ‹_›, nofun, nofun⟩
  · cases h; exact ⟨nofun, fun _ => BitVec.eq_of_toNat_eq ‹_›, nofun⟩
  · cases h; exact ⟨nofun, nofun, fun _ => BitVec.eq_of_toNat_eq ‹_›⟩
  iterate 3 cases h; exact ⟨nofun, nofun, nofun⟩
  split at h
  · obtain ⟨k, _, rfl⟩ := Option.map_eq_some_iff.1 h
    exact ⟨nofun, nofun, nofun⟩
  · nomatch h

/-- A read of a mapped offset (42_status.md R147). -/
theorem decodeAccess_rdAccess {off : BitVec 12} (h : (regAt n off).isSome = true) : decodeAccess n (rdAccess off) = .rd off := by
  obtain ⟨r, hr⟩ := Option.isSome_iff_exists.1 h
  simp [decodeAccess, rdAccess, hr]

/-- A write of a read-only offset (42_status.md R144). -/
theorem decodeAccess_wrAccess_readOnly {off : BitVec 12} (v : Word) (h : readOnlyOffset n off = true) :
    decodeAccess n (wrAccess off v) = .wrReadOnly off v := by
  unfold readOnlyOffset at h
  split at h <;> simp_all [decodeAccess, wrAccess]

/-- The access that faults: of another width than 32 bits or at an offset that is not mapped (42_status.md R145, R146). -/
theorem decodeAccess_of_faulting {a : HostAccess} (h : (Instr.hostAccessFault a).wellFormed n = true) :
    decodeAccess n a = .hostAccessFault a := by
  simp only [Instr.wellFormed, Bool.or_eq_true, bne_iff_ne, Option.isNone_iff_eq_none] at h
  unfold decodeAccess
  split
  · rfl
  · next hw => rw [h.resolve_left hw]

end

/-- Settles O3: by the form the access decodes to, which its width, then the register at its offset, then its direction give. -/
theorem accessDecodeEncodeAgree : Obligations.AccessDecodeEncodeAgree := by
  intro n a
  have form {i : Instr} (h : decodeAccess n a = i) (hwf : i.wellFormed n = true) (he : encode i = [a]) :
      (decodeAccess n a).wellFormed n = true ∧ encode (decodeAccess n a) = [a] := h ▸ ⟨hwf, he⟩
  by_cases hf : (Instr.hostAccessFault a).wellFormed n = true
  · exact form (decodeAccess_of_faulting hf) hf rfl
  obtain ⟨op, width, off⟩ := a
  obtain ⟨rfl, hmapped⟩ : width = .word ∧ (regAt n off).isSome = true := by
    simpa [Instr.wellFormed, Option.isSome_iff_ne_none] using hf
  cases op with
  | read => exact form (decodeAccess_rdAccess hmapped) hmapped rfl
  | write v =>
    obtain ⟨r, hr⟩ := Option.isSome_iff_exists.1 hmapped
    obtain ⟨hcmd, hsrc, hdst⟩ := off_of_regAt hr
    cases r with
    | cmd => cases hcmd rfl; exact form (i := .wrCmd v) rfl rfl rfl
    | argSrc => cases hsrc rfl; exact form (i := .wrArgSrc v) rfl rfl rfl
    | argDst => cases hdst rfl; exact form (i := .wrArgDst v) rfl rfl rfl
    | err | donePend | info | chan =>
      have hro : readOnlyOffset n off = true := by rw [readOnlyOffset, hr]
      exact form (decodeAccess_wrAccess_readOnly v hro) hro rfl

/-- The access of a command is the write of its word to CMD (42_status.md R143). -/
theorem encode_of_encodeCommand {i : Instr} {w : Word} (h : encodeCommand i = some w) : encode i = [wrAccess 0x000 w] := by
  cases i <;> cases h <;> rfl

/-- Settles O4: each access form by its equation of the decoder; a command by its one access. -/
theorem accessEncodeDecodeAgree : Obligations.AccessEncodeDecodeAgree := by
  refine ⟨fun n i hwf hcmd hinit harm => ?_, fun n i w h => ?_⟩
  · cases i with
    | wrCmd | wrArgSrc | wrArgDst => rfl
    | wrReadOnly off v => exact congrArg (fun i => [i]) (decodeAccess_wrAccess_readOnly v hwf)
    | rd off => exact congrArg (fun i => [i]) (decodeAccess_rdAccess hwf)
    | hostAccessFault a => exact congrArg (fun i => [i]) (decodeAccess_of_faulting hwf)
    | arm => exact (harm _ _ _ _ rfl).elim
    | initeng => exact (hinit rfl).elim
    | nop | cfgch | cfgdesc | actb | stop | unbind | clrovr | ackerr | ackdone | illegal9 | illegalA | illegalB | illegalC
    | illegalD | illegalE | illegalF => nomatch hcmd
  · rw [encode_of_encodeCommand h]
    rfl

end Sys2Proof.Machine

/-! The pseudo-instructions (30_encoding.md R95): running the accesses of an expansion, and what ARM and INITENG do. -/

namespace Sys2Proof.Machine

/-- A run of one step, of any machine, is the step. -/
theorem run_one (M : Host.Core) (s : M.State) : M.run 1 s = M.step s := by
  simp only [Host.Core.run]
  cases M.step s <;> rfl

/-- The same of the engine's machine. -/
theorem core_run_one (s : State) : Sys2Proof.core.run 1 s = step s := run_one Sys2Proof.core s

/-- A step whose event is a write of ARG_SRC (42_status.md R143). -/
theorem step_wrArgSrc (s : State) (v : Word) (es : List Event) :
    step (s.setAgenda (.host (wrAccess 0x004 v) :: es)) = .next ((s.setArgSrc v).setAgenda es) := rfl

/-- A step whose event is a write of ARG_DST (42_status.md R143). -/
theorem step_wrArgDst (s : State) (v : Word) (es : List Event) :
    step (s.setAgenda (.host (wrAccess 0x008 v) :: es)) = .next ((s.setArgDst v).setAgenda es) := rfl

/-- A step whose event is a write of CMD, put in front of the agenda (42_status.md R143). -/
theorem step_wrCmd (s : State) (v : Word) :
    step (s.setAgenda (.host (wrAccess 0x000 v) :: s.agenda)) = exec (decodeCommand v) s := by
  obtain ⟨w, hw⟩ := decodeCommand_isCommand v
  rw [exec_eq_runCommand _ w hw]
  rfl

/-- The word ARM writes to CMD is that of ACTB (30_encoding.md R95). -/
theorem decodeCommand_armWord (ch : Chn) (nm1 : BitVec 16) :
    decodeCommand (0x3#4 ++ ch ++ nm1 ++ 0x00#8) = .actb ch false false 0 nm1 := by
  simp (disch := decide) [decodeCommand, -Nat.reduceAdd, -BitVec.getLsbD_eq_getElem, BitVec.getLsbD_append,
    BitVec.extractLsb'_append_eq_of_le, BitVec.extractLsb'_append_eq_of_add_le]

/-- Settles O33: each access is a step of its own; ARM's first two write the staging registers, and its last is ACTB. -/
theorem pseudoInstructionExpands : Obligations.PseudoInstructionExpands := by
  refine ⟨fun s ch src dst nm1 => ?_, fun s => ?_⟩
  · refine (core_run_succ 2 _ _ (step_wrArgSrc s src _)).trans ?_
    refine (core_run_succ 1 _ _ (step_wrArgDst (s.setArgSrc src) dst _)).trans ?_
    refine (core_run_one _).trans ((step_wrCmd ((s.setArgSrc src).setArgDst dst) _).trans ?_)
    rw [decodeCommand_armWord]
    rfl
  · exact (core_run_one _).trans (step_wrCmd s _)

section
variable {s : State} {ch : Chn} {nm1 : BitVec 16} (hc : ch.toNat < s.numChannels)
  (hp : (s.chan ch.toNat).phase = .unarmed ∨ (s.chan ch.toNat).phase = .completed) (hn : nm1.toNat < s.params.maxUnits)
  (hcfg : (s.chan ch.toNat).cfg = true) (hv : (s.chan ch.toNat).desc0.valid = true)
include hc hp hn hcfg hv

/-- ACTB that passes every check (41_activation.md R122). -/
theorem execActb_of_admitted : execActb ch false false 0 nm1 s = .next
    ((s.setChan ch.toNat ((s.chan ch.toNat).activate s.argSrc s.argDst nm1)).markFaultedIf
      (!s.argSrcWritten || !s.argDstWritten)) := by
  rcases hp with hp | hp <;>
    simp [execActb, Nat.not_le.2 hc, hp, Phase.active, Nat.not_le.2 hn, hcfg, hv]

/-- ARM whose ACTB passes every check: that ACTB finds both staging registers written, so it does not mark the run. -/
theorem exec_arm_of_admitted (src dst : Word) : exec (.arm ch src dst nm1) s = .next
    (((s.setArgSrc src).setArgDst dst).setChan ch.toNat ((s.chan ch.toNat).activate src dst nm1)) := by
  refine (execActb_of_admitted (s := (s.setArgSrc src).setArgDst dst) hc hp hn hcfg hv).trans ?_
  simp [State.markFaultedIf, State.setChan]

end

/-- What ACTB writes, with the unit count as a number (41_activation.md R122). -/
theorem Channel.activate_eq (c : Channel) (src dst : Word) (nm1 : BitVec 16) :
    c.activate src dst nm1 = { c with
      src := src, dst := dst, nm1 := nm1, burst := false, slot := false,
      remain := BitVec.ofNat 17 (nm1.toNat + 1), req := false, donePend := false, phase := .armed } := by
  rw [Channel.activate, ← toNat_units, BitVec.ofNat_toNat, BitVec.setWidth_eq]

/-- Settles O34: ARM writes both staging registers and activates its one channel; INITENG is ACKERR 0, 0. -/
theorem armArmsAndInitengClears : Obligations.ArmArmsAndInitengClears := by
  refine ⟨fun s ch src dst nm1 hc hp hn hcfg hv => ?_, fun s => rfl⟩
  refine ⟨_, exec_arm_of_admitted hc hp hn hcfg hv src dst, ⟨rfl, State.setChan_only _ _ _⟩, ?_⟩
  exact (State.chan_setChan_same _ _ _ hc).trans (Channel.activate_eq ..)

end Sys2Proof.Machine

/-! The configuration commands (40_configuration.md): the checks every configuring or activating command makes first, in the
order of 60_exceptions.md R204, then what NOP, CFGCH and CFGDESC do. -/

namespace Sys2Proof.Machine

/-- Settles O14: a nonzero field fails the one check NOP makes. -/
theorem nopExecutes : Obligations.NopExecutes :=
  ⟨fun _ => rfl, fun _ _ _ h => ⟨_, if_pos h, rfl⟩⟩

section
variable {s : State} {r : Result}

/-- A command whose answer is a command error records it, and nothing else (60_exceptions.md R203). -/
theorem recordsOnly_of_commandError {code : ErrCode} {op : BitVec 4} {ch : Chn} (h : r = commandError code op ch s) :
    ∃ t, r = .next t ∧ RecordsOnly s t code op ch :=
  h ▸ commandError_next code op ch s

/-- A command whose answer is a write of one channel changes that channel, and nothing else. -/
theorem onlyChannel_of_setChan {c : Nat} {x : Channel} (hc : c < s.numChannels) (h : r = .next (s.setChan c x)) :
    ∃ t, r = .next t ∧ OnlyChannel s t c ∧ t.chan c = x :=
  ⟨_, h, ⟨rfl, s.setChan_only c x⟩, s.chan_setChan_same c x hc⟩

end

/-- The checks of the channel number, the reserved bits and the phase, in the order of 60_exceptions.md R204, that CFGCH,
CFGDESC and ACTB make alike; `rest` is what the command answers once they pass. -/
def phaseChecked (op : BitVec 4) (ch : Chn) (reserved : Prop) [Decidable reserved] (s : State) (rest : Result) : Result :=
  if s.numChannels ≤ ch.toNat then commandError .badChannel op ch s
  else if reserved then commandError .reservedBits op ch s
  else if (s.chan ch.toNat).phase = .faulted then commandError .channelFaulted op ch s
  else if (s.chan ch.toNat).phase = .stopped then commandError .stopped op ch s
  else if (s.chan ch.toNat).phase.active then commandError .busy op ch s
  else rest

section
variable (op : BitVec 4) (ch : Chn) (reserved : Prop) [Decidable reserved] (s : State) (rest : Result)

/-- The error of the first shared check that fails, with only `ERR` changed. -/
theorem phaseChecked_fails :
    let p := (s.chan ch.toNat).phase
    let fails := fun code => ∃ t, phaseChecked op ch reserved s rest = .next t ∧ RecordsOnly s t code op ch
    (s.numChannels ≤ ch.toNat → fails .badChannel)
    ∧ (ch.toNat < s.numChannels → reserved → fails .reservedBits)
    ∧ (ch.toNat < s.numChannels → ¬ reserved →
        (p = .faulted → fails .channelFaulted)
        ∧ (p = .stopped → fails .stopped)
        ∧ (p = .armed ∨ p = .inProgress → fails .busy)) := by
  refine ⟨fun hc => recordsOnly_of_commandError (if_pos hc),
    fun hc hr => recordsOnly_of_commandError ((if_neg (Nat.not_le.2 hc)).trans (if_pos hr)), fun hc hr => ?_⟩
  rw [phaseChecked, if_neg (Nat.not_le.2 hc), if_neg hr]
  refine ⟨fun hp => recordsOnly_of_commandError (if_pos hp), fun hp => recordsOnly_of_commandError ?_,
    fun hp => recordsOnly_of_commandError ?_⟩
  · simp [hp]
  · rcases hp with hp | hp <;> simp [hp, Phase.active]

variable {op ch reserved s rest}

/-- An unarmed or completed channel passes the shared checks. -/
theorem phaseChecked_of_idle (hc : ch.toNat < s.numChannels) (hr : ¬ reserved)
    (hp : (s.chan ch.toNat).phase = .unarmed ∨ (s.chan ch.toNat).phase = .completed) :
    phaseChecked op ch reserved s rest = rest := by
  rcases hp with hp | hp <;> simp [phaseChecked, Nat.not_le.2 hc, hr, hp, Phase.active]

end

/-- CFGCH makes the shared checks, then that of the trigger code (40_configuration.md R104). -/
theorem exec_cfgch (ch : Chn) (prio ie cb res3 : Bool) (trig : BitVec 8) (resHi : BitVec 12) (s : State) :
    exec (.cfgch ch prio ie cb res3 trig resHi) s = phaseChecked 0x1 ch (res3 = true ∨ resHi ≠ 0) s
      (if trig ∉ s.params.triggerSet then commandError .unsupportedValue 0x1 ch s
      else .next (s.setChan ch.toNat { s.chan ch.toNat with
        prio := prio, ie := ie, cb := cb, trig := trig, cfg := true, donePend := (s.chan ch.toNat).donePend && ie })) :=
  rfl

/-- CFGDESC makes the shared checks, then that of the unit size (40_configuration.md R108). -/
theorem exec_cfgdesc (ch : Chn) (slot sinc dinc res3 : Bool) (size res76 : BitVec 2) (arb : BitVec 4) (prot : BitVec 3)
    (resHi : BitVec 9) (s : State) :
    exec (.cfgdesc ch slot sinc dinc res3 size res76 arb prot resHi) s
      = phaseChecked 0x2 ch (res3 = true ∨ res76 ≠ 0 ∨ resHi ≠ 0) s
        (if size ≠ 0 then commandError .unsupportedValue 0x2 ch s
        else .next (s.setChan ch.toNat
          (if slot then { s.chan ch.toNat with desc1 := ⟨true, sinc, dinc, size, arb, prot⟩ }
          else { s.chan ch.toNat with desc0 := ⟨true, sinc, dinc, size, arb, prot⟩ }))) :=
  rfl

/-- Settles O15: by the shared checks, then by whether the trigger code is admitted. -/
theorem cfgchExecutes : Obligations.CfgchExecutes := by
  intro s ch prio ie cb res3 trig resHi
  simp only [exec_cfgch]
  obtain ⟨hbad, hreserved, hphase⟩ := phaseChecked_fails 0x1 ch (res3 = true ∨ resHi ≠ 0) s _
  refine ⟨hbad, hreserved, ?_⟩
  rintro hc rfl rfl
  have hr : ¬ (false = true ∨ (0 : BitVec 12) ≠ 0) := by decide
  obtain ⟨hfaulted, hstopped, hactive⟩ := hphase hc hr
  refine ⟨hfaulted, hstopped, hactive, fun hp ht => ?_, fun hp ht => ?_⟩
  · exact recordsOnly_of_commandError ((phaseChecked_of_idle hc hr hp).trans (if_pos ht))
  · refine onlyChannel_of_setChan hc ((phaseChecked_of_idle hc hr hp).trans ((if_neg (not_not.2 ht)).trans ?_))
    cases ie <;> simp

/-- Settles O16: by the shared checks, then by the unit size; a valid CFGDESC writes the slot it names. -/
theorem cfgdescExecutes : Obligations.CfgdescExecutes := by
  intro s ch slot sinc dinc res3 size res76 arb prot resHi
  simp only [exec_cfgdesc]
  obtain ⟨hbad, hreserved, hphase⟩ := phaseChecked_fails 0x2 ch (res3 = true ∨ res76 ≠ 0 ∨ resHi ≠ 0) s _
  refine ⟨hbad, hreserved, ?_⟩
  rintro hc rfl rfl rfl
  have hr : ¬ (false = true ∨ (0 : BitVec 2) ≠ 0 ∨ (0 : BitVec 9) ≠ 0) := by decide
  obtain ⟨hfaulted, hstopped, hactive⟩ := hphase hc hr
  refine ⟨hfaulted, hstopped, hactive, fun hp hs => ?_, fun hp => ⟨?_, ?_⟩⟩
  · exact recordsOnly_of_commandError ((phaseChecked_of_idle hc hr hp).trans (if_pos hs))
  · exact onlyChannel_of_setChan hc (phaseChecked_of_idle hc hr hp)
  · exact onlyChannel_of_setChan hc (phaseChecked_of_idle hc hr hp)

end Sys2Proof.Machine

/-! The activation commands (41_activation.md): what ACTB, STOP and UNBIND do, then the transition table (R132) that every
step follows, and the terminal phases (R127, 60_exceptions.md R212). -/

namespace Sys2Proof.Machine

/-- ACTB makes the shared checks, then those of the mode bits, the unit count and the configuration (41_activation.md R122). -/
theorem exec_actb (ch : Chn) (slot burst : Bool) (res72 : BitVec 6) (nm1 : BitVec 16) (s : State) :
    exec (.actb ch slot burst res72 nm1) s = phaseChecked 0x3 ch (res72 ≠ 0) s
      (if slot = true ∨ burst = true then commandError .unsupportedValue 0x3 ch s
      else if s.params.maxUnits ≤ nm1.toNat then commandError .countRange 0x3 ch s
      else if (s.chan ch.toNat).cfg = false ∨ (s.chan ch.toNat).desc0.valid = false then
        commandError .notConfigured 0x3 ch s
      else .next ((s.setChan ch.toNat ((s.chan ch.toNat).activate s.argSrc s.argDst nm1)).markFaultedIf
        (!s.argSrcWritten || !s.argDstWritten))) :=
  rfl

/-- Settles O17: by the shared checks, then by each of ACTB's own; a valid ACTB activates its one channel. -/
theorem actbExecutes : Obligations.ActbExecutes := by
  intro s ch slot burst res72 nm1
  simp only [exec_actb ch slot burst res72]
  obtain ⟨hbad, hreserved, hphase⟩ := phaseChecked_fails 0x3 ch (res72 ≠ 0) s _
  refine ⟨hbad, hreserved, fun hc hr => ?_⟩
  obtain ⟨hfaulted, hstopped, hactive⟩ := hphase hc (not_not.2 hr)
  refine ⟨hfaulted, hstopped, hactive, fun hp => ?_⟩
  rw [phaseChecked_of_idle hc (not_not.2 hr) hp]
  refine ⟨fun hm => recordsOnly_of_commandError (if_pos hm), ?_, ?_, fun hn hcfg hv => ?_⟩
  · rintro rfl rfl hn
    exact recordsOnly_of_commandError (if_pos hn)
  · rintro rfl rfl hn hcfg
    exact recordsOnly_of_commandError ((if_neg (Nat.not_le.2 hn)).trans (if_pos hcfg))
  · refine ⟨_, execActb_of_admitted hc hp hn hcfg hv, ⟨rfl, State.setChan_only s _ _⟩, ?_⟩
    exact (State.chan_setChan_same s _ _ hc).trans (Channel.activate_eq ..)

/-- The checks of the channel number and of a payload that must be 0, in the order of 60_exceptions.md R204, that STOP,
UNBIND, CLROVR and ACKDONE make; `rest` is what the command answers once they pass. -/
def payloadChecked (op : BitVec 4) (ch : Chn) (pay : BitVec 24) (s : State) (rest : Result) : Result :=
  if s.numChannels ≤ ch.toNat then commandError .badChannel op ch s
  else if pay ≠ 0 then commandError .reservedBits op ch s
  else rest

section
variable (op : BitVec 4) (ch : Chn) (pay : BitVec 24) (s : State) (rest : Result)

/-- The error of the first of the two checks that fails, with only `ERR` changed. -/
theorem payloadChecked_fails :
    (s.numChannels ≤ ch.toNat → ∃ t, payloadChecked op ch pay s rest = .next t ∧ RecordsOnly s t .badChannel op ch)
    ∧ (ch.toNat < s.numChannels → pay ≠ 0 →
        ∃ t, payloadChecked op ch pay s rest = .next t ∧ RecordsOnly s t .reservedBits op ch) :=
  ⟨fun hc => recordsOnly_of_commandError (if_pos hc),
    fun hc hp => recordsOnly_of_commandError ((if_neg (Nat.not_le.2 hc)).trans (if_pos hp))⟩

variable {ch s}

/-- With no payload, a command of a channel that is there passes both checks. -/
theorem payloadChecked_zero (hc : ch.toNat < s.numChannels) : payloadChecked op ch 0 s rest = rest :=
  (if_neg (Nat.not_le.2 hc)).trans (if_neg (not_not.2 rfl))

end

/-- STOP makes the two checks, then leaves a terminal channel and stops any other (41_activation.md R126). -/
theorem exec_stop (ch : Chn) (pay : BitVec 24) (s : State) :
    exec (.stop ch pay) s = payloadChecked 0x4 ch pay s
      (if (s.chan ch.toNat).phase = .faulted ∨ (s.chan ch.toNat).phase = .stopped then .next s
      else .next (s.setChan ch.toNat { s.chan ch.toNat with phase := .stopped, req := false, donePend := false })) :=
  rfl

/-- UNBIND makes the two checks, then faults an active channel and unbinds any other (41_activation.md R129). -/
theorem exec_unbind (ch : Chn) (pay : BitVec 24) (s : State) :
    exec (.unbind ch pay) s = payloadChecked 0x5 ch pay s
      (if (s.chan ch.toNat).phase.active then callbackLifetimeViolation ch s
      else .next (s.setChan ch.toNat { s.chan ch.toNat with cb := false })) :=
  rfl

/-- Settles O18: by the two checks, then by whether the phase is terminal. -/
theorem stopExecutes : Obligations.StopExecutes := by
  intro s ch pay
  simp only [exec_stop]
  obtain ⟨hbad, hreserved⟩ := payloadChecked_fails 0x4 ch pay s _
  refine ⟨hbad, hreserved, fun hc => ?_⟩
  rw [payloadChecked_zero _ _ hc]
  exact ⟨fun hp => if_pos hp, fun hf hs => onlyChannel_of_setChan hc (if_neg (not_or.2 ⟨hf, hs⟩))⟩

/-- Settles O19: by the two checks, then by whether the channel is active. -/
theorem unbindExecutes : Obligations.UnbindExecutes := by
  intro s ch pay
  simp only [exec_unbind]
  obtain ⟨hbad, hreserved⟩ := payloadChecked_fails 0x5 ch pay s _
  refine ⟨hbad, hreserved, fun hc => ?_⟩
  rw [payloadChecked_zero _ _ hc]
  simp only [Phase.active_iff]
  refine ⟨fun ha hi => onlyChannel_of_setChan hc (if_neg (not_or.2 ⟨ha, hi⟩)), fun hp => ?_⟩
  refine ⟨_, (if_pos hp).trans (callbackLifetimeViolation_next ch s), ⟨rfl, State.setChan_only s _ _⟩, ?_⟩
  exact State.chan_setChan_same s _ _ hc

/-- A unit leaves its channel completed or in progress (43_engine.md R168, R169). -/
theorem Channel.afterUnit_phase (c : Channel) : c.afterUnit.phase = .completed ∨ c.afterUnit.phase = .inProgress := by
  by_cases h : c.remain = 1
  · rw [c.afterUnit_last h]; exact .inl rfl
  · rw [c.afterUnit_more h]; exact .inr rfl

/-- An active channel may be faulted (41_activation.md R132). -/
theorem active_faulted_mem_phaseChanges {p : Phase} (h : p = .armed ∨ p = .inProgress) : (p, .faulted) ∈ phaseChanges := by
  rcases h with rfl | rfl <;> decide

/-- No change of the transition table starts from a terminal phase (41_activation.md R127). -/
theorem terminal_not_mem_phaseChanges {p : Phase} (h : p = .stopped ∨ p = .faulted) (q : Phase) : (p, q) ∉ phaseChanges := by
  rcases h with rfl | rfl <;> cases q <;> decide

section
variable {s : State} {c : Nat}

theorem Inv.active_of_grantEnabled (h : Inv s) (hg : s.grantEnabled c = true) :
    (s.chan c).phase = .armed ∨ (s.chan c).phase = .inProgress :=
  (h.channelOk c).item1 (State.req_of_grantEnabled hg)

theorem Inv.completed_of_rearmEnabled (h : Inv s) (hg : s.rearmEnabled c = true) : (s.chan c).phase = .completed :=
  ((h.channelOk c).item2 (State.donePend_of_rearmEnabled hg)).1

/-- Each thing a step can make of a channel, against the transition table. A grant finds the channel active and a re-arm
finds it completed only because of the invariant (10_state.md R26 items 1, 2). -/
theorem ChannelStep.phase {x : Channel} (h : ChannelStep s c x) (hs : Inv s) :
    x.phase = (s.chan c).phase ∨ ((s.chan c).phase, x.phase) ∈ phaseChanges := by
  cases h with
  | cfgdesc ch slot => cases slot <;> exact .inl rfl
  | trigger code => exact .inl (Channel.trigger_phase code _)
  | actb ch nm1 _ _ hp =>
    right
    show (_, Phase.armed) ∈ phaseChanges
    rcases hp with hp | hp <;> rw [hp] <;> decide
  | stop ch _ _ hf hs =>
    right
    show (_, Phase.stopped) ∈ phaseChanges
    revert hf hs
    cases (s.chan c).phase <;> decide
  | violation ch _ _ hp => exact .inr (active_faulted_mem_phaseChanges hp)
  | busError _ hg => exact .inr (active_faulted_mem_phaseChanges (hs.active_of_grantEnabled hg))
  | unit _ hg =>
    rcases hs.active_of_grantEnabled hg with hp | hp <;> rcases (s.chan c).afterUnit_phase with hq | hq <;>
      rw [hp, hq] <;> decide
  | rearm _ hg =>
    right
    rw [hs.completed_of_rearmEnabled hg]
    show (_, Phase.armed) ∈ phaseChanges
    decide
  | _ => exact .inl rfl

/-- A terminal channel has neither a request nor a completion pending, so its grant and its re-arm are passed over. -/
theorem Inv.terminal_passed_over (h : Inv s) (hp : (s.chan c).phase = .stopped ∨ (s.chan c).phase = .faulted) :
    s.grantStep c = s ∧ s.rearmStep c = s := by
  refine ⟨if_neg fun hg => ?_, if_neg fun hg => ?_⟩
  · have ha := h.active_of_grantEnabled hg
    rcases hp with hp | hp <;> simp [hp] at ha
  · have hd := h.completed_of_rearmEnabled hg
    rcases hp with hp | hp <;> simp [hp] at hd

end

/-- Settles O51: by what a step does to the phase of one channel. -/
theorem phasesFollowTransitionTable : Obligations.PhasesFollowTransitionTable :=
  fun _ _ hs ht hr _ hc => (step_channel ht hr hc).phase hs

/-- Settles O52: the transition table has no change from a terminal phase. -/
theorem terminalPhasesStay : Obligations.TerminalPhasesStay := by
  refine ⟨fun s t c ht hr hs hc => ?_, fun s c hs _ hp => ?_⟩
  · have hstay (hp : (s.chan c).phase = .stopped ∨ (s.chan c).phase = .faulted) : (t.chan c).phase = (s.chan c).phase :=
      (phasesFollowTransitionTable s t hs ht hr c hc).resolve_right (terminal_not_mem_phaseChanges hp _)
    exact ⟨fun hp => (hstay (.inl hp)).trans hp, fun hp => (hstay (.inr hp)).trans hp⟩
  · obtain ⟨hg, hr⟩ := hs.terminal_passed_over hp
    exact ⟨congrArg _ hg, congrArg _ hr⟩

end Sys2Proof.Machine

/-! The status commands (42_status.md R140 to R142), and the host's register accesses: which of them fault (R145, R146), what a
write does (R143, R144), and what no instruction changes. -/

namespace Sys2Proof.Machine

/-! ### CLROVR, ACKERR, ACKDONE -/

/-- CLROVR makes the two checks, then clears the loss counter (42_status.md R140). -/
theorem exec_clrovr (ch : Chn) (pay : BitVec 24) (s : State) :
    exec (.clrovr ch pay) s = payloadChecked 0x6 ch pay s
      (.next (s.setChan ch.toNat { s.chan ch.toNat with ovr := 0 })) :=
  rfl

/-- ACKDONE makes the two checks, then withdraws the completion (42_status.md R142). -/
theorem exec_ackdone (ch : Chn) (pay : BitVec 24) (s : State) :
    exec (.ackdone ch pay) s = payloadChecked 0x8 ch pay s
      (.next (s.setChan ch.toNat { s.chan ch.toNat with donePend := false })) :=
  rfl

/-- Settles O20: by the two checks, after which the one channel is written, whatever its phase. -/
theorem clrovrExecutes : Obligations.ClrovrExecutes := by
  intro s ch pay
  simp only [exec_clrovr]
  obtain ⟨hbad, hreserved⟩ := payloadChecked_fails 0x6 ch pay s _
  exact ⟨hbad, hreserved, fun hc => onlyChannel_of_setChan hc (payloadChecked_zero _ _ hc)⟩

/-- Settles O22: by the two checks, after which the one channel is written, bound or not. -/
theorem ackdoneExecutes : Obligations.AckdoneExecutes := by
  intro s ch pay
  simp only [exec_ackdone]
  obtain ⟨hbad, hreserved⟩ := payloadChecked_fails 0x8 ch pay s _
  exact ⟨hbad, hreserved, fun hc => onlyChannel_of_setChan hc (payloadChecked_zero _ _ hc)⟩

/-- Settles O21: a nonzero field fails the one check ACKERR makes. -/
theorem ackerrExecutes : Obligations.AckerrExecutes :=
  ⟨fun _ => rfl, fun _ _ _ h => recordsOnly_of_commandError (if_pos h)⟩

/-! ### Which offsets are mapped -/

/-- A channel block holds a register at each multiple of 4 below 0x24 (10_state.md R31). -/
theorem chanRegAt_eq_none_iff (o : Nat) : chanRegAt o = none ↔ o % 4 ≠ 0 ∨ 0x24 ≤ o := by
  unfold chanRegAt
  split
  case h_10 => simp only [imp_false, true_iff] at *; omega
  all_goals simp

/-- The offsets 10_state.md R31 maps nothing at, the misaligned ones among them. -/
theorem regAt_eq_none_iff (n : Nat) (off : BitVec 12) :
    regAt n off = none ↔ off.toNat % 4 ≠ 0 ∨ (0x018 ≤ off.toNat ∧ off.toNat < 0x100) ∨ 0x100 + 0x40 * n ≤ off.toNat
      ∨ (0x100 ≤ off.toNat ∧ 0x24 ≤ (off.toNat - 0x100) % 0x40) := by
  unfold regAt
  generalize off.toNat = o
  split
  case h_7 =>
    split
    · rw [Option.map_eq_none_iff, chanRegAt_eq_none_iff]
      omega
    · simp only [imp_false, true_iff] at *
      omega
  all_goals simp only [reduceCtorEq, false_iff]; omega

/-- The decoder answers HostAccessFault exactly where that form is well formed. -/
theorem decodeAccess_eq_hostAccessFault_iff (n : Nat) (a : HostAccess) :
    decodeAccess n a = .hostAccessFault a ↔ a.width ≠ .word ∨ regAt n a.off = none := by
  have hwf : (Instr.hostAccessFault a).wellFormed n = true ↔ a.width ≠ .word ∨ regAt n a.off = none := by
    simp [Instr.wellFormed]
  exact ⟨fun h => hwf.1 (h ▸ (accessDecodeEncodeAgree n a).1), fun h => decodeAccess_of_faulting (hwf.2 h)⟩

/-- Settles O7: the decoder faults by width or by an offset with no register, and the fault writes two fields. -/
theorem badAccessRaisesHostAccessFault : Obligations.BadAccessRaisesHostAccessFault := by
  intro s a
  refine ⟨?_, fun h => ?_⟩
  · rw [decodeAccess_eq_hostAccessFault_iff, regAt_eq_none_iff]
  · rw [h]
    exact hostAccessFault_next a.off s

/-! ### Writes -/

/-- A write of a read-only offset changes nothing (42_status.md R144). -/
theorem exec_wrReadOnly_of_readOnlyOffset {s : State} {off : BitVec 12} (v : Word)
    (h : readOnlyOffset s.numChannels off = true) : exec (.wrReadOnly off v) s = .next s := by
  unfold readOnlyOffset at h
  split at h <;> simp_all [exec, execWrReadOnly]

/-- Every register of a channel's block is read-only (10_state.md R31). -/
theorem readOnlyOffset_chan {n c k : Nat} {off : BitVec 12} (hc : c < n) (hk : k ≤ 8)
    (ho : off.toNat = 0x100 + 0x40 * c + 4 * k) : readOnlyOffset n off = true := by
  have hmapped : chanRegAt (4 * k) ≠ none := by rw [Ne, chanRegAt_eq_none_iff]; omega
  obtain ⟨r, hr⟩ := Option.ne_none_iff_exists'.1 hmapped
  rw [readOnlyOffset, regAt_chan n c k off r hr hc hk ho]

/-- Settles O28: each of the offsets is read-only. -/
theorem readOnlyWriteIgnored : Obligations.ReadOnlyWriteIgnored := by
  intro s off v hoff
  have hro : readOnlyOffset s.numChannels off = true := by
    rcases hoff with rfl | rfl | rfl | ⟨c, k, hc, hk, ho⟩
    · rfl
    · rfl
    · rfl
    · exact readOnlyOffset_chan hc hk ho
  exact ⟨decodeAccess_wrAccess_readOnly v hro, exec_wrReadOnly_of_readOnlyOffset v hro⟩

/-- Settles O11: a write to CMD runs the decoded command, which always answers; the other two write their register. -/
theorem hostWritesTakeEffect : Obligations.HostWritesTakeEffect := by
  intro s v
  refine ⟨?_, ⟨_, rfl, rfl, rfl⟩, ⟨_, rfl, rfl, rfl⟩⟩
  obtain ⟨w, hw⟩ := decodeCommand_isCommand v
  obtain ⟨t, ht, _⟩ := runCommand_next _ w hw s
  exact ⟨t, ht, ht, (exec_eq_runCommand _ w hw s).trans ht⟩

/-- Settles O9: the step takes that event, and taking it off the agenda keeps the number of channels. -/
theorem stepRunsDecodedAccess : Obligations.StepRunsDecodedAccess := by
  rintro s a es i hs rfl _
  exact step_of_agenda_cons hs

/-- Settles O10: a placed word is a write to CMD in front of the agenda. -/
theorem placedWordRunsNext : Obligations.PlacedWordRunsNext :=
  fun s w => step_wrCmd s (BitVec.ofNat 32 w)

/-! ### What no instruction changes -/

section
variable {s t : State} {i : Instr}

/-- A command writes the channels, `ERR` and the mark of the run only. -/
theorem CommandEffect.frame (h : CommandEffect s i t) :
    t = { s with chans := t.chans, err := t.err, runFaulted := t.runFaulted } := by
  cases h <;> rfl

/-- An instruction writes, beside what a command writes, the staging registers and the host's answer only. -/
theorem InstrEffect.frame (h : InstrEffect s i t) : t = { s with
    chans := t.chans, err := t.err, runFaulted := t.runFaulted, hostResp := t.hostResp
    argSrc := t.argSrc, argDst := t.argDst, argSrcWritten := t.argSrcWritten, argDstWritten := t.argDstWritten } := by
  induction h with
  | command _ _ _ _ h | wrCmd _ _ h => rw [h.frame]
  | arm _ _ _ _ _ h => rw [h.frame]; rfl
  | writable _ _ _ _ _ _ ih => exact ih
  | wrArgSrc | wrArgDst | readOnly | rd | accessFault | initeng => rfl

/-- Only a read, an access that faults and an ill-formed write change what the host last saw. -/
theorem InstrEffect.hostResp (h : InstrEffect s i t) :
    t.hostResp = s.hostResp ∨ (∃ off, i = .rd off) ∨ (∃ a, i = .hostAccessFault a) ∨ ∃ off v, i = .wrReadOnly off v := by
  cases h with
  | command _ _ _ _ h | wrCmd _ _ h => left; rw [h.frame]
  | arm _ _ _ _ _ h => left; rw [h.frame]; rfl
  | wrArgSrc | wrArgDst | initeng => exact .inl rfl
  | rd off => exact .inr (.inl ⟨off, rfl⟩)
  | accessFault _ off hi =>
    rcases hi with ⟨a, rfl⟩ | rfl | ⟨v, rfl⟩
    · exact .inr (.inr (.inl ⟨a, rfl⟩))
    · exact .inr (.inl ⟨off, rfl⟩)
    · exact .inr (.inr (.inr ⟨off, v, rfl⟩))
  | readOnly off v | writable off v => exact .inr (.inr (.inr ⟨off, v, rfl⟩))

/-- Only the staging writes, ARM and an ill-formed write change the staging registers. -/
theorem InstrEffect.staging (h : InstrEffect s i t) :
    (t.argSrc = s.argSrc ∧ t.argSrcWritten = s.argSrcWritten ∧ t.argDst = s.argDst ∧ t.argDstWritten = s.argDstWritten)
    ∨ (∃ v, i = .wrArgSrc v) ∨ (∃ v, i = .wrArgDst v) ∨ (∃ ch src dst nm1, i = .arm ch src dst nm1)
    ∨ ∃ off v, i = .wrReadOnly off v := by
  cases h with
  | command _ _ _ _ h | wrCmd _ _ h => left; rw [h.frame]; exact ⟨rfl, rfl, rfl, rfl⟩
  | rd | accessFault | initeng => exact .inl ⟨rfl, rfl, rfl, rfl⟩
  | wrArgSrc v => exact .inr (.inl ⟨v, rfl⟩)
  | wrArgDst v => exact .inr (.inr (.inl ⟨v, rfl⟩))
  | arm ch src dst nm1 => exact .inr (.inr (.inr (.inl ⟨ch, src, dst, nm1, rfl⟩)))
  | readOnly off v | writable off v => exact .inr (.inr (.inr (.inr ⟨off, v, rfl⟩)))

end

/-- Settles O27: by what an instruction may write at all, then by which of them writes the last two parts. -/
theorem instructionFrame : Obligations.InstructionFrame := by
  intro i s t ht
  have heffect := exec_next i s t ht
  obtain ⟨hparams, hchannels, hmem, hout⟩ := heffect.sameMemory
  have hframe := heffect.frame
  exact ⟨hparams, hchannels, hmem, fun a => by rw [hmem], by rw [hframe], by rw [hframe], hout, by rw [hframe],
    by rw [hframe], by rw [hframe], heffect.hostResp, heffect.staging⟩

end Sys2Proof.Machine

/-! The engine's own steps (43_engine.md): what a trigger does (R160 to R164), when a grant and a re-arm have an effect
(R165, R175), what a unit moves (R166, R168, R170), and where a completion goes (R180, R181). -/

namespace Sys2Proof.Machine

/-! ### Triggers -/

/-- The codes of which a trigger is an event (43_engine.md R160). -/
theorem triggerCode_iff (p : Params) (code : BitVec 8) :
    triggerCode p code = true ↔ code ≠ 0 ∧ code ∈ p.triggerSet := by
  simp [triggerCode]

/-- A channel not bound to a code has no configuration or another code (43_engine.md R161). -/
theorem Channel.boundTo_eq_false_iff (c : Channel) (code : BitVec 8) :
    c.boundTo code = false ↔ c.cfg = false ∨ c.trig ≠ code := by
  simp [Channel.boundTo, or_iff_not_imp_left]

/-- A channel bound to a code is configured with it (43_engine.md R161). -/
theorem Channel.boundTo_iff (c : Channel) (code : BitVec 8) : c.boundTo code = true ↔ c.cfg = true ∧ c.trig = code := by
  simp [Channel.boundTo]

/-- A channel that is not active is neither armed nor in progress. -/
theorem Phase.active_eq_false_iff (x : Phase) : x.active = false ↔ x ≠ .armed ∧ x ≠ .inProgress := by
  rw [← Bool.not_eq_true, x.active_iff, not_or]

/-- Settles O35: each channel by whether it is bound, then by whether it can take the trigger. -/
theorem triggerTakenOrCounted : Obligations.TriggerTakenOrCounted := by
  intro s code h0 hs
  have ht : s.triggerStep code = s.mapChans (Channel.trigger code) := if_pos ((triggerCode_iff _ _).2 ⟨h0, hs⟩)
  refine ⟨_, congrArg Host.Outcome.next ht, rfl, s.numChannels_mapChans _, fun c hc => ?_⟩
  rw [s.chan_mapChans _ c hc]
  refine ⟨fun hu => ?_, fun hcfg htrig => ⟨fun ha hr => ?_, fun hl => ?_⟩⟩
  · exact Channel.trigger_unbound _ _ ((Channel.boundTo_eq_false_iff _ _).2 hu)
  · exact Channel.trigger_taken _ _ ((Channel.boundTo_iff _ _).2 ⟨hcfg, htrig⟩) ((Phase.active_iff _).2 ha) hr
  · rw [← Phase.active_eq_false_iff] at hl
    rw [Channel.trigger_lost _ _ ((Channel.boundTo_iff _ _).2 ⟨hcfg, htrig⟩) hl, satSucc_eq]

/-- A trigger no channel is bound to leaves every channel (43_engine.md R162). -/
theorem State.mapChans_trigger_unbound (s : State) (code : BitVec 8)
    (h : ∀ c, c < s.numChannels → (s.chan c).boundTo code = false) : s.mapChans (Channel.trigger code) = s := by
  have hmap : s.chans.map (Channel.trigger code) = s.chans := by
    refine (List.map_congr_left fun x hx => ?_).trans (List.map_id _)
    obtain ⟨c, hc, rfl⟩ := s.exists_chan_of_mem x hx
    exact Channel.trigger_unbound code _ (h c hc)
  rw [State.mapChans, hmap]

/-- Settles O36: a code of no event is passed over; a trigger of any other leaves the channels not bound to it, which are
all. -/
theorem unboundTriggerChangesNothing : Obligations.UnboundTriggerChangesNothing := by
  intro s code h
  refine congrArg Host.Outcome.next ?_
  rcases s.triggerStep_cases code with ⟨_, e⟩ | ⟨hcode, e⟩ <;> rw [e]
  obtain ⟨h0, hs⟩ := (triggerCode_iff _ _).1 hcode
  have hu := (h.resolve_left h0).resolve_left (not_not.2 hs)
  exact s.mapChans_trigger_unbound code fun c hc => (Channel.boundTo_eq_false_iff _ _).2 (hu c hc)

/-! ### One byte moved -/

/-- A read at `sa` and a write of its byte at `da` (43_engine.md R166, R168). -/
def State.moveByte (s : State) (sa da : Word) : State := (s.afterRead sa).writeByte da (s.readByte sa)

/-- Everything the move of a byte changes. -/
theorem State.moveByte_eq (s : State) (sa da : Word) :
    s.moveByte sa da = { s with
      mem := s.mem.store da (s.readByte sa)
      out := if da = s.params.txDataAddr then s.out ++ [s.readByte sa] else s.out
      rxReads := s.rxReads + if sa = s.params.rxDataAddr then 1 else 0 } := by
  rw [State.moveByte, State.writeByte_eq, State.afterRead_eq]

/-- The move of a byte reads no channel and writes none. -/
theorem State.moveByte_setChan (s : State) (c : Nat) (x : Channel) (sa da : Word) :
    (s.setChan c x).moveByte sa da = (s.moveByte sa da).setChan c x := by
  rw [State.moveByte_eq, State.moveByte_eq]
  rfl

@[simp] theorem State.numChannels_moveByte (s : State) (sa da : Word) : (s.moveByte sa da).numChannels = s.numChannels := by
  rw [State.moveByte_eq]; rfl

@[simp] theorem State.chan_moveByte (s : State) (sa da : Word) (c : Nat) : (s.moveByte sa da).chan c = s.chan c := by
  rw [State.moveByte_eq]; rfl

/-- An enabled grant whose bytes MEM_MAP admits moves the byte and advances the channel (43_engine.md R166). -/
theorem State.grantStep_of_admitted {s : State} {c : Nat} (hg : s.grantEnabled c = true)
    (hr : readable s.params (s.chan c).srcAddr = true) (hw : writable s.params (s.chan c).dstAddr = true) :
    s.grantStep c = (s.moveByte (s.chan c).srcAddr (s.chan c).dstAddr).setChan c (s.chan c).afterUnit := by
  simp [State.grantStep, hg, State.unitStep, hr, hw, State.moveByte]

/-- Settles O39: by what the move of a byte changes and what a unit writes in its channel. -/
theorem grantMovesOneUnit : Obligations.GrantMovesOneUnit := by
  intro s c hc hg ch sa da v hr hw
  refine ⟨_, congrArg Host.Outcome.next (State.grantStep_of_admitted hg hr hw), ?_⟩
  have hchan : ((s.moveByte sa da).setChan c ch.afterUnit).chan c = ch.afterUnit :=
    State.chan_setChan_same _ _ _ (by simpa using hc)
  refine ⟨by rw [State.moveByte_eq]; rfl, by simp, fun d hd => by simp [hd], ?_, ?_, ?_, fun a ha => ?_,
    fun h1 => hchan.trans (ch.afterUnit_more h1), fun h1 => hchan.trans ((ch.afterUnit_last h1).trans ?_)⟩
  · rw [State.moveByte_eq]; rfl
  · rw [State.moveByte_eq]; rfl
  · rw [State.moveByte_eq]; exact Memory.load_store_same _ _ _
  · rw [State.moveByte_eq]; exact Memory.load_store_ne _ _ _ _ ha
  · cases ch.ie <;> rfl

/-- A bus error changes its channel, `ERR` and the mark of the run only (60_exceptions.md R211). -/
theorem State.busError_only {s : State} {c : Nat} (hc : c < s.numChannels) :
    OnlyChannel { s with
      err := recordErr s.err .busError 0x0 true (BitVec.ofNat 4 c)
      runFaulted := (s.busError c).runFaulted } (s.busError c) c
    ∧ (s.busError c).chan c = { s.chan c with phase := .faulted, req := false } :=
  ⟨⟨rfl, s.setChan_only c _⟩, s.chan_setChan_same c _ hc⟩

/-- Settles O40: the failing read consumes nothing, the failing write what its read consumed. -/
theorem busErrorFaultsChannel : Obligations.BusErrorFaultsChannel := by
  intro s c hc hg sa hbad
  have hgrant : takeEvent (.grant c) s = .next (s.unitStep c) := congrArg Host.Outcome.next (if_pos hg)
  refine ⟨_, hgrant, ?_⟩
  rcases s.unitStep_cases c with ⟨hr, e⟩ | ⟨hr, _, e⟩ | ⟨hr, hw, _⟩
  · rw [e, if_neg (by simp [sa, hr])]
    exact State.busError_only hc
  · have hread : readable s.params sa = true := hr
    rw [e, s.afterRead_eq]
    simp only [hread, true_and]
    exact State.busError_only hc
  · exact absurd hbad (by simp [sa, hr, hw])

/-! ### When a grant and a re-arm have an effect -/

section
variable {s : State} {c : Nat} (hc : c < s.numChannels)
include hc

/-- An enabled grant takes the request away, so it has an effect. -/
theorem State.grantStep_ne_self_iff : s.grantStep c ≠ s ↔ s.grantEnabled c = true := by
  rcases s.grantStep_cases c with ⟨hg, e⟩ | ⟨hg, e⟩
  · simp [hg, e]
  · refine iff_of_true (fun h => ?_) hg
    have hreq : (s.grantStep c).chan c = s.chan c := by rw [h]
    have hpending := State.req_of_grantEnabled hg
    rw [e] at hreq
    rcases s.chan_unitStep_same c hc with e | e <;> rw [← hreq, e] at hpending
    · nomatch hpending
    · rw [Channel.afterUnit_eq] at hpending
      nomatch hpending

/-- An enabled re-arm takes the completion away, so it has an effect. -/
theorem State.rearmStep_ne_self_iff : s.rearmStep c ≠ s ↔ s.rearmEnabled c = true := by
  rcases s.rearmStep_cases c with ⟨hg, e⟩ | ⟨hg, e⟩
  · simp [hg, e]
  · refine iff_of_true (fun h => ?_) hg
    have hpending := State.donePend_of_rearmEnabled hg
    rw [← h, e, State.chan_setChan_same _ _ _ hc] at hpending
    nomatch hpending

end

/-- `ReArm(c)` is enabled exactly as 43_engine.md R175 says. -/
theorem State.rearmEnabled_iff (s : State) (c : Nat) :
    s.rearmEnabled c = true ↔ (s.chan c).donePend = true ∧ (s.chan c).cb = true :=
  Bool.and_eq_true_iff

/-- An event that answers a next state changes something exactly if that state is another. -/
theorem next_ne_next_iff {s t : State} : (.next t : Result) ≠ .next s ↔ t ≠ s := by
  rw [Ne, Host.Outcome.next.injEq]

/-- Settles O38: an enabled grant clears REQ and an enabled re-arm DONE_PEND, and one that is not enabled is passed over. -/
theorem engineStepsOnlyWhenEnabled : Obligations.EngineStepsOnlyWhenEnabled := by
  intro s c hc
  refine ⟨next_ne_next_iff.trans ?_, next_ne_next_iff.trans ?_⟩
  · rw [State.grantStep_ne_self_iff hc, State.grantEnabled_iff]
  · rw [State.rearmStep_ne_self_iff hc, State.rearmEnabled_iff]

/-! ### Re-arm and the interrupt line -/

/-- What a re-arm writes, with the unit count as a number (43_engine.md R175). -/
theorem Channel.rearm_eq (c : Channel) :
    c.rearm = { c with donePend := false, remain := BitVec.ofNat 17 (c.nm1.toNat + 1), req := false, phase := .armed } := by
  rw [Channel.rearm, Channel.units, ← toNat_units, BitVec.ofNat_toNat, BitVec.setWidth_eq]

/-- Settles O42: an enabled re-arm writes its one channel. -/
theorem rearmRestartsBurst : Obligations.RearmRestartsBurst := by
  intro s c hc hd hcb
  rw [← Channel.rearm_eq]
  exact onlyChannel_of_setChan hc (congrArg Host.Outcome.next (if_pos ((s.rearmEnabled_iff c).2 ⟨hd, hcb⟩)))

/-- The interrupt line, by the channels' numbers (43_engine.md R180). -/
theorem State.irq_iff (s : State) :
    s.irq = true ↔ ∃ c, c < s.numChannels ∧ (s.chan c).donePend = true ∧ (s.chan c).cb = false := by
  simp only [State.irq, List.any_eq_true, Bool.and_eq_true, Bool.not_eq_true']
  constructor
  · rintro ⟨x, hx, h⟩
    obtain ⟨c, hc, rfl⟩ := s.exists_chan_of_mem x hx
    exact ⟨c, hc, h⟩
  · rintro ⟨c, hc, h⟩
    exact ⟨_, s.chan_mem c hc, h⟩

/-- Settles O43: with IE 0 no completion is pending (10_state.md R26 item 2), so a re-arm is not enabled. -/
theorem completionRouting : Obligations.CompletionRouting := by
  refine fun s => ⟨s.irq_iff, fun hs c _ hie => ?_⟩
  have hd : (s.chan c).donePend = false := Bool.eq_false_iff.2 fun h => by
    obtain ⟨_, hie'⟩ := (hs.channelOk c).item2 h
    exact Bool.false_ne_true (hie.symm.trans hie')
  exact ⟨hd, congrArg Host.Outcome.next (if_neg (by simp [s.rearmEnabled_iff, hd]))⟩

end Sys2Proof.Machine

/-! Bursts (43_engine.md R166 to R168): `k` units, each on its own trigger, move `k` bytes and advance their channel `k`
times; then what the bytes moved by a whole receive burst and a whole transmit burst are. -/

namespace Sys2Proof.Machine

/-! ### The channel through its burst -/

/-- The source address of unit `k` (20_memory.md R68). -/
def Channel.unitSrc (c : Channel) (k : Nat) : Word := c.src + (if c.desc0.sinc then BitVec.ofNat 32 k else 0)

/-- The destination address of unit `k` (20_memory.md R68). -/
def Channel.unitDst (c : Channel) (k : Nat) : Word := c.dst + (if c.desc0.dinc then BitVec.ofNat 32 k else 0)

section
variable {c : Channel} {k : Nat}

/-- With `k` units done, the addresses are those of unit `k`. -/
theorem Channel.addrs_of_remain (h : c.remain.toNat + k = c.nm1.toNat + 1) :
    c.srcAddr = c.unitSrc k ∧ c.dstAddr = c.unitDst k := by
  have hk : c.unitIndex.setWidth 32 = BitVec.ofNat 32 k := by
    rw [← BitVec.ofNat_toNat, Channel.toNat_unitIndex h]
  rw [Channel.srcAddr, Channel.dstAddr, hk]
  exact ⟨rfl, rfl⟩

variable (ha : c.phase.active = true) (hr : c.req = false)
include ha hr

/-- Before its last unit a channel is active, with as many units left as have not been done. -/
theorem Channel.iterate_afterUnit (hk : k < c.remain.toNat) :
    ∃ p : Phase, p.active = true
      ∧ Channel.afterUnit^[k] c = { c with remain := BitVec.ofNat 17 (c.remain.toNat - k), phase := p } := by
  induction k with
  | zero => exact ⟨c.phase, ha, by simp⟩
  | succ k ih =>
    obtain ⟨p, _, e⟩ := ih (by omega)
    have hlt := c.remain.isLt
    have hne : BitVec.ofNat 17 (c.remain.toNat - k) ≠ 1 := by bv_omega
    have hsub : BitVec.ofNat 17 (c.remain.toNat - k) - 1 = BitVec.ofNat 17 (c.remain.toNat - (k + 1)) := by
      rw [← Nat.sub_sub]
      exact BitVec.ofNat_sub_ofNat_of_le _ 1 (by decide) (by omega)
    refine ⟨.inProgress, rfl, ?_⟩
    rw [Function.iterate_succ_apply', e, Channel.afterUnit_more _ hne, hsub, ← hr]

/-- Before its last unit a channel can take its trigger, and its next unit is that of the units done. -/
theorem Channel.iterate_afterUnit_ready (hn : c.remain.toNat = c.nm1.toNat + 1) (hk : k < c.nm1.toNat + 1) :
    let x := Channel.afterUnit^[k] c
    x.phase.active = true ∧ x.req = false ∧ (∀ code, x.boundTo code = c.boundTo code)
      ∧ x.srcAddr = c.unitSrc k ∧ x.dstAddr = c.unitDst k := by
  obtain ⟨p, hp, e⟩ := Channel.iterate_afterUnit ha hr (k := k) (by omega)
  rw [e]
  refine ⟨hp, hr, fun _ => rfl, Channel.addrs_of_remain ?_⟩
  show (BitVec.ofNat 17 (c.remain.toNat - k)).toNat + k = c.nm1.toNat + 1
  have hlt := c.remain.isLt
  rw [BitVec.toNat_ofNat]
  omega

/-- The whole burst completes the channel once (43_engine.md R168). -/
theorem Channel.iterate_afterUnit_all (hk : c.remain.toNat = k + 1) :
    Channel.afterUnit^[k + 1] c = { c with
      remain := 0, phase := .completed, done := c.done + 1, donePend := c.ie || c.donePend } := by
  obtain ⟨p, _, e⟩ := Channel.iterate_afterUnit ha hr (k := k) (by omega)
  rw [Function.iterate_succ_apply', e, Channel.afterUnit_last _ (by rw [hk, Nat.add_sub_cancel_left]; rfl), ← hr]

end

/-! ### The bytes of a burst -/

/-- The first `n` bytes moved, byte `k` from `src k` to `dst k`. -/
def State.moveBytes (s : State) (src dst : Nat → Word) : Nat → State
  | 0 => s
  | n + 1 => (s.moveBytes src dst n).moveByte (src n) (dst n)

section
variable (s : State) (src dst : Nat → Word) (n : Nat)

/-- Moving bytes changes memory, the bytes sent and the count of received bytes only. -/
theorem State.moveBytes_frame : s.moveBytes src dst n = { s with
    mem := (s.moveBytes src dst n).mem, out := (s.moveBytes src dst n).out
    rxReads := (s.moveBytes src dst n).rxReads } := by
  induction n with
  | zero => rfl
  | succ n ih => rw [State.moveBytes, State.moveByte_eq, ih]

@[simp] theorem State.moveBytes_params : (s.moveBytes src dst n).params = s.params := by
  rw [State.moveBytes_frame]

@[simp] theorem State.chan_moveBytes (c : Nat) : (s.moveBytes src dst n).chan c = s.chan c := by
  rw [State.moveBytes_frame]; rfl

@[simp] theorem State.numChannels_moveBytes : (s.moveBytes src dst n).numChannels = s.numChannels := by
  rw [State.moveBytes_frame]; rfl

/-- The received stream stays as it is. -/
@[simp] theorem State.rxByte_moveBytes (j : Nat) : (s.moveBytes src dst n).rxByte j = s.rxByte j := by
  rw [State.moveBytes_frame]; rfl

variable {s src dst n}

/-- A byte at no destination stays. -/
theorem State.load_moveBytes_of_ne {a : Word} (h : ∀ k, k < n → a ≠ dst k) :
    (s.moveBytes src dst n).mem.load a = s.mem.load a := by
  induction n with
  | zero => rfl
  | succ n ih =>
    rw [State.moveBytes, State.moveByte_eq]
    exact (Memory.load_store_ne _ _ _ _ (h n n.lt_succ_self)).trans (ih fun k hk => h k (by omega))

/-- Bytes moved from RXDATA are consumed one by one (60_exceptions.md R228). -/
theorem State.rxReads_moveBytes_of_rx (h : ∀ k, src k = s.params.rxDataAddr) :
    (s.moveBytes src dst n).rxReads = s.rxReads + n := by
  induction n with
  | zero => rfl
  | succ n ih => simp [State.moveBytes, State.moveByte_eq, h n, ih, Nat.add_assoc]

/-- Bytes moved from elsewhere consume nothing. -/
theorem State.rxReads_moveBytes_of_ne (h : ∀ k, k < n → src k ≠ s.params.rxDataAddr) :
    (s.moveBytes src dst n).rxReads = s.rxReads := by
  induction n with
  | zero => rfl
  | succ n ih => simp [State.moveBytes, State.moveByte_eq, h n n.lt_succ_self, ih fun k hk => h k (by omega)]

/-- Bytes moved elsewhere than to TXDATA are not sent (60_exceptions.md R229). -/
theorem State.out_moveBytes_of_ne (h : ∀ k, k < n → dst k ≠ s.params.txDataAddr) :
    (s.moveBytes src dst n).out = s.out := by
  induction n with
  | zero => rfl
  | succ n ih => simp [State.moveBytes, State.moveByte_eq, h n n.lt_succ_self, ih fun k hk => h k (by omega)]

/-- Bytes moved from RXDATA to addresses of their own stand there in the order received. -/
theorem State.load_moveBytes_of_rx (hsrc : ∀ k, src k = s.params.rxDataAddr)
    (hdst : ∀ j k, j < k → k < n → dst j ≠ dst k) {k : Nat} (hk : k < n) :
    (s.moveBytes src dst n).mem.load (dst k) = s.rxByte (s.rxReads + k) := by
  induction n with
  | zero => nomatch hk
  | succ n ih =>
    rw [State.moveBytes, State.moveByte_eq]
    rcases Nat.lt_succ_iff_lt_or_eq.1 hk with hlt | rfl
    · exact (Memory.load_store_ne _ _ _ _ (hdst k n hlt n.lt_succ_self)).trans
        (ih (fun i j hij hj => hdst i j hij (by omega)) hlt)
    · refine (Memory.load_store_same _ _ _).trans ?_
      simp [State.readByte, hsrc, State.rxReads_moveBytes_of_rx hsrc]

/-- Bytes moved to TXDATA from plain memory are sent in order, as they stood at the start: TXDATA is no source. -/
theorem State.out_moveBytes_of_tx (hdst : ∀ k, dst k = s.params.txDataAddr)
    (hsrc : ∀ k, k < n → src k ≠ s.params.rxDataAddr ∧ src k ≠ s.params.txDataAddr) :
    (s.moveBytes src dst n).out = s.out ++ (List.range n).map fun k => s.mem.load (src k) := by
  induction n with
  | zero => simp [State.moveBytes]
  | succ n ih =>
    obtain ⟨hrx, htx⟩ := hsrc n n.lt_succ_self
    have hload : (s.moveBytes src dst n).mem.load (src n) = s.mem.load (src n) :=
      State.load_moveBytes_of_ne fun k _ => by rwa [hdst k]
    simp [State.moveBytes, State.moveByte_eq, hdst n, State.readByte, hrx, hload, ih fun k hk => hsrc k (by omega),
      List.range_succ]

end

/-! ### Units, each on its own trigger -/

/-- Channel `c` alone is served by trigger `code`: no other is bound to it, and no other has a request pending. -/
structure ServedAlone (s : State) (c : Nat) (code : BitVec 8) : Prop where
  lt       : c < s.numChannels
  code_ne  : code ≠ 0
  admitted : code ∈ s.params.triggerSet
  idle     : ∀ d, d < s.numChannels → d ≠ c → (s.chan d).req = false
  unbound  : ∀ d, d < s.numChannels → d ≠ c → (s.chan d).boundTo code = false

/-- A write of one channel over another of the same channel. -/
theorem State.setChan_setChan (s : State) (c : Nat) (x y : Channel) : (s.setChan c x).setChan c y = s.setChan c y := by
  simp [State.setChan]

/-- A channel written as it is. -/
theorem State.setChan_chan {s : State} {c : Nat} (hc : c < s.numChannels) : s.setChan c (s.chan c) = s := by
  simp only [State.numChannels] at hc
  simp [State.setChan, State.chan, hc]

section
variable {s : State} {c : Nat} {code : BitVec 8}

/-- A channel stays served alone whatever it becomes and whatever bytes are moved. -/
theorem ServedAlone.setChan_moveBytes (h : ServedAlone s c code) (src dst : Nat → Word) (n : Nat) (x : Channel) :
    ServedAlone ((s.moveBytes src dst n).setChan c x) c code where
  lt := by simpa using h.lt
  code_ne := h.code_ne
  admitted := by simpa using h.admitted
  idle d hd hne := by simpa [hne] using h.idle d (by simpa using hd) hne
  unbound d hd hne := by simpa [hne] using h.unbound d (by simpa using hd) hne

/-- One unit of a channel served alone: its trigger is taken, its grant enabled, and the byte moved (43_engine.md R166). -/
theorem ServedAlone.triggerAndGrant (h : ServedAlone s c code) (ha : (s.chan c).phase.active = true)
    (hr : (s.chan c).req = false) (hb : (s.chan c).boundTo code = true)
    (hread : readable s.params (s.chan c).srcAddr = true) (hwrite : writable s.params (s.chan c).dstAddr = true) :
    s.triggerAndGrant code c
      = (s.moveByte (s.chan c).srcAddr (s.chan c).dstAddr).setChan c (s.chan c).afterUnit := by
  have hchan := s.chan_setChan_same c { s.chan c with req := true } h.lt
  have hg : (s.setChan c { s.chan c with req := true }).grantEnabled c = true := by
    refine (State.grantEnabled_iff _ c).2 ⟨by rw [hchan], or_iff_not_imp_left.2 fun hp d hd hreq => ?_⟩
    by_cases hdc : d = c
    · rw [hdc]
      simpa using hp
    · rw [State.chan_setChan_ne _ _ _ _ hdc, h.idle d (by simpa using hd) hdc] at hreq
      nomatch hreq
  rw [State.triggerAndGrant, s.triggerStep_only c code h.code_ne h.admitted ha hr hb h.unbound,
    State.grantStep_of_admitted hg (by rw [hchan]; exact hread) (by rw [hchan]; exact hwrite), hchan,
    State.moveByte_setChan, State.setChan_setChan]
  rfl

/-- `k` units of a channel served alone: its first `k` bytes moved, and the channel advanced `k` times. -/
theorem ServedAlone.units_eq {ch : Channel} (h : ServedAlone s c code) (hch : s.chan c = ch)
    (ha : ch.phase.active = true) (hr : ch.req = false) (hb : ch.boundTo code = true)
    (hn : ch.remain.toNat = ch.nm1.toNat + 1) {k : Nat} (hk : k ≤ ch.nm1.toNat + 1)
    (hmap : ∀ j, j < k → readable s.params (ch.unitSrc j) = true ∧ writable s.params (ch.unitDst j) = true) :
    State.units code c k s = (s.moveBytes ch.unitSrc ch.unitDst k).setChan c (Channel.afterUnit^[k] ch) := by
  induction k with
  | zero =>
    rw [← hch]
    exact (State.setChan_chan h.lt).symm
  | succ k ih =>
    obtain ⟨hact, hreq, hbound, hsrc, hdst⟩ := Channel.iterate_afterUnit_ready ha hr hn (Nat.lt_of_succ_le hk)
    obtain ⟨hread, hwrite⟩ := hmap k k.lt_succ_self
    have hunit := (h.setChan_moveBytes ch.unitSrc ch.unitDst k (Channel.afterUnit^[k] ch)).triggerAndGrant
    rw [State.chan_setChan_same _ c _ (by simpa using h.lt), hsrc, hdst] at hunit
    rw [State.units, ih (Nat.le_of_succ_le hk) fun j hj => hmap j (Nat.lt_succ_of_lt hj),
      hunit hact hreq ((hbound code).trans hb) (by simpa using hread) (by simpa using hwrite),
      State.moveByte_setChan, State.setChan_setChan, Function.iterate_succ_apply']
    rfl

end

section
variable {s : State} {c : Nat} {code : BitVec 8} (hs : Inv s) (hc : c < s.numChannels) (hcode : code ≠ 0)
  (ha : (s.chan c).phase = .armed) (hr : (s.chan c).req = false) (ht : (s.chan c).trig = code)
  (ho : ∀ d, d < s.numChannels → d ≠ c →
    (s.chan d).req = false ∧ ((s.chan d).cfg = false ∨ (s.chan d).trig ≠ code))
include hs hc hcode ha hr ht ho

/-- The whole burst of an armed channel served alone: every byte moved, and the channel completed once. -/
theorem Inv.units_burst
    (hmap : ∀ k, k < (s.chan c).nm1.toNat + 1 →
      readable s.params ((s.chan c).unitSrc k) = true ∧ writable s.params ((s.chan c).unitDst k) = true) :
    State.units code c ((s.chan c).nm1.toNat + 1) s
      = (s.moveBytes (s.chan c).unitSrc (s.chan c).unitDst ((s.chan c).nm1.toNat + 1)).setChan c { s.chan c with
          remain := 0, phase := .completed, done := (s.chan c).done + 1
          donePend := (s.chan c).ie || (s.chan c).donePend } := by
  have hok := hs.channelOk c
  have hact : (s.chan c).phase.active = true := (Phase.active_iff _).2 (.inl ha)
  have halone : ServedAlone s c code :=
    ⟨hc, hcode, ht ▸ hok.trig_admitted, fun d hd hne => (ho d hd hne).1,
      fun d hd hne => (Channel.boundTo_eq_false_iff _ _).2 (ho d hd hne).2⟩
  have hbound : (s.chan c).boundTo code = true := (Channel.boundTo_iff _ _).2 ⟨(hok.item3 (.inl ha)).1, ht⟩
  rw [halone.units_eq rfl hact hr hbound (hok.item4armed ha) le_rfl hmap,
    Channel.iterate_afterUnit_all hact hr (hok.item4armed ha)]

end

/-- The addresses of a buffer shorter than the address space differ, wrapping or not (20_memory.md R68). -/
theorem add_ofNat_ne {base : Word} {j k n : Nat} (hn : n < 2 ^ 32) (hjk : j < k) (hk : k < n) :
    base + BitVec.ofNat 32 j ≠ base + BitVec.ofNat 32 k := by
  rw [Ne, BitVec.add_right_inj, ← BitVec.toNat_inj, BitVec.toNat_ofNat, BitVec.toNat_ofNat]
  omega

/-- Settles O57: the bytes moved come from RXDATA and go to the buffer's addresses, which are all different. -/
theorem receiveBurstFillsBuffer : Obligations.ReceiveBurstFillsBuffer := by
  intro s c code hs hc hcode ch units ha hr ht hsrc hsinc hdinc hbuf ho t
  have hS (k : Nat) : ch.unitSrc k = s.params.rxDataAddr := by simp [Channel.unitSrc, hsinc, hsrc]
  have hD (k : Nat) : ch.unitDst k = ch.dst + BitVec.ofNat 32 k := by simp [Channel.unitDst, hdinc]
  have hlt : units < 2 ^ 32 := by have := ch.nm1.isLt; omega
  have hburst : t = _ := hs.units_burst hc hcode ha hr ht ho fun k hk =>
    ⟨hS k ▸ hs.params.rx_readable, hD k ▸ (hbuf k hk).1⟩
  rw [hburst, State.chan_setChan_same _ c _ (by simpa using hc)]
  refine ⟨rfl, rfl, rfl, rfl, State.rxReads_moveBytes_of_rx hS, State.out_moveBytes_of_ne fun k hk => ?_, fun k hk => ?_,
    fun a hne => State.load_moveBytes_of_ne fun k hk => ?_, fun d hd => ?_⟩
  · exact hD k ▸ (hbuf k hk).2
  · rw [← hD k]
    exact State.load_moveBytes_of_rx hS (fun i j hij hj => by rw [hD i, hD j]; exact add_ofNat_ne hlt hij hj) hk
  · exact hD k ▸ hne k hk
  · rw [State.chan_setChan_ne _ _ _ _ hd, State.chan_moveBytes]

/-- Settles O58: the bytes moved go to TXDATA, which MEM_MAP lets no unit read, so no source is overwritten. -/
theorem transmitBurstSendsBuffer : Obligations.TransmitBurstSendsBuffer := by
  intro s c code hs hc hcode ch units ha hr ht hdst hsinc hdinc hbuf ho t
  have hS (k : Nat) : ch.unitSrc k = ch.src + BitVec.ofNat 32 k := by simp [Channel.unitSrc, hsinc]
  have hD (k : Nat) : ch.unitDst k = s.params.txDataAddr := by simp [Channel.unitDst, hdinc, hdst]
  have hburst : t = _ := hs.units_burst hc hcode ha hr ht ho fun k hk =>
    ⟨hS k ▸ (hbuf k hk).1, hD k ▸ hs.params.tx_writable⟩
  have hsrc (k : Nat) (hk : k < units) : ch.unitSrc k ≠ s.params.rxDataAddr ∧ ch.unitSrc k ≠ s.params.txDataAddr := by
    obtain ⟨hread, hrx⟩ := hbuf k hk
    refine ⟨hS k ▸ hrx, fun htx => ?_⟩
    rw [← hS k, htx, hs.params.tx_not_readable] at hread
    nomatch hread
  rw [hburst, State.chan_setChan_same _ c _ (by simpa using hc)]
  refine ⟨rfl, rfl, rfl, rfl, ?_, State.rxReads_moveBytes_of_ne fun k hk => (hsrc k hk).1,
    fun a hne => State.load_moveBytes_of_ne fun k _ => hD k ▸ hne, fun d hd => ?_⟩
  · simp only [← hS]
    exact State.out_moveBytes_of_tx hD hsrc
  · rw [State.chan_setChan_ne _ _ _ _ hd, State.chan_moveBytes]

end Sys2Proof.Machine

/-! The exceptions (60_exceptions.md): every step goes on (R203, R206, R207, R214), what the error record holds (R201, R202,
R205), and how far a command reaches (R203, R221). -/

namespace Sys2Proof.Machine

/-- Settles O12: by the effect each instruction has. -/
theorem everyInstructionAnswersNext : Obligations.EveryInstructionAnswersNext := fun i s =>
  have ⟨t, ht, _⟩ := exec_effect i s
  ⟨t, ht⟩

/-- Every event answers a next state; a host access does because the instruction it decodes to does. -/
theorem takeEvent_next (e : Event) (s : State) : ∃ t, takeEvent e s = .next t := by
  cases e with
  | host a => exact everyInstructionAnswersNext (decodeAccess s.numChannels a) s
  | hostStore a v =>
    rcases hostStoreStep_cases a v s with ⟨off, _, e⟩ | ⟨_, e⟩
    · exact ⟨_, e.trans (hostAccessFault_next off s)⟩
    · exact ⟨_, e⟩
  | hostLoad a =>
    rcases hostLoadStep_cases a s with ⟨off, _, e⟩ | ⟨_, e⟩
    · exact ⟨_, e.trans (hostAccessFault_next off s)⟩
    · exact ⟨_, e⟩
  | trigger | grant | rearm | reset => exact ⟨_, rfl⟩

/-- Settles O13: by the event the step takes. -/
theorem everyStepAnswersNext : Obligations.EveryStepAnswersNext := fun s =>
  step_eq s ▸ takeEvent_next s.headEvent s.popped

/-- Settles O32: a HostAccessFault writes only what the host sees and the mark of the run. -/
theorem hostAccessFaultKeepsEngine : Obligations.HostAccessFaultKeepsEngine := fun a s =>
  ⟨_, hostAccessFault_next a.off s, rfl, rfl, rfl, rfl, rfl, rfl, rfl, rfl⟩

/-! ### The error record -/

/-- A word with a reserved operation code executes as that code on its CH field (30_encoding.md R83). -/
theorem exec_decodeCommand_of_illegal {w : Word} (h : 0x9 ≤ (w.extractLsb' 28 4).toNat) (s : State) :
    exec (decodeCommand w) s = illegalOp (w.extractLsb' 28 4) (w.extractLsb' 24 4) s := by
  have hlt := (w.extractLsb' 28 4).isLt
  unfold decodeCommand
  split
  iterate 9 omega
  case' h_16 => have hop : (w.extractLsb' 28 4).toNat = 0xF := by grind
  all_goals
    rename (w.extractLsb' 28 4).toNat = _ => hop
    rw [← op_eq_of_toNat hop]
    rfl

/-- Settles O23: a reserved operation code answers its command error, whatever the payload. -/
theorem illegalOpcodesRecorded : Obligations.IllegalOpcodesRecorded := by
  refine ⟨fun s w h => recordsOnly_of_commandError (exec_decodeCommand_of_illegal h s), fun s ch pay op i hi => ?_⟩
  simp only [List.mem_cons, Prod.mk.injEq, List.not_mem_nil, or_false] at hi
  rcases hi with ⟨rfl, rfl⟩ | ⟨rfl, rfl⟩ | ⟨rfl, rfl⟩ | ⟨rfl, rfl⟩ | ⟨rfl, rfl⟩ | ⟨rfl, rfl⟩ | ⟨rfl, rfl⟩ <;>
    exact recordsOnly_of_commandError rfl

/-- The fields of a fresh record that `errWord_fields` leaves out (60_exceptions.md R202). -/
theorem errWord_op_ch_lost (code : ErrCode) (op : BitVec 4) (eng : Bool) (ch : Chn) :
    (errWord code op eng ch).extractLsb' 4 4 = op ∧ (errWord code op eng ch).extractLsb' 12 4 = ch
    ∧ (errWord code op eng ch).getLsbD 30 = false := by
  simp (disch := decide) [errWord, -BitVec.getLsbD_eq_getElem, -Nat.reduceAdd, BitVec.getLsbD_append,
    BitVec.extractLsb'_append_eq_of_le, BitVec.extractLsb'_append_eq_of_add_le]

/-- Setting LOST sets bit 30 and no other (60_exceptions.md R202). -/
theorem getLsbD_or_lost (e : Word) (j : Nat) :
    (e ||| 0x40000000).getLsbD j = (if j = 30 then true else e.getLsbD j) := by
  have hlost : (0x40000000 : Word) = BitVec.twoPow 32 30 := rfl
  rw [hlost, BitVec.getLsbD_or, BitVec.getLsbD_twoPow]
  by_cases hj : j = 30
  · simp [hj]
  · simp [hj, Ne.symm hj]

/-- Settles O24: a fresh record field by field, a later error by the one bit it sets. -/
theorem firstErrorIsKept : Obligations.FirstErrorIsKept := by
  refine ⟨fun e code op eng ch => ⟨fun hclear => ?_, fun hheld j => ?_⟩, fun _ => rfl, fun _ => ⟨_, rfl, rfl⟩⟩
  · rw [recordErr_of_clear e code op eng ch hclear]
    obtain ⟨hcode, heng, hlow, hhigh, hvalid⟩ := errWord_fields code op eng ch
    obtain ⟨hop, hch, hlost⟩ := errWord_op_ch_lost code op eng ch
    refine ⟨?_, hop, heng, hlow, hch, hhigh, hlost, hvalid⟩
    rw [hcode]
    cases code <;> rfl
  · rw [recordErr_of_valid e code op eng ch hheld, getLsbD_or_lost]

/-! ### How far a command reaches -/

section
variable {i : Instr} {w : Word} {s t : State} (hi : encodeCommand i = some w)
include hi

/-- What a command that answers `t` did. -/
theorem commandEffect_of_exec (ht : exec i s = .next t) : CommandEffect s i t := by
  obtain ⟨u, hu, heffect⟩ := runCommand_next i w hi s
  rw [← exec_eq_runCommand i w hi, ht] at hu
  cases hu
  exact heffect

/-- A command leaves every channel but the one its CH field names (60_exceptions.md R221). -/
theorem CommandEffect.chan_of_ne (h : CommandEffect s i t) {d : Nat} (hd : d ≠ (w.extractLsb' 24 4).toNat) :
    t.chan d = s.chan d := by
  cases h with
  | error | nop | stopKept | ackerr => rfl
  | cfgch ch | cfgdesc ch | actb ch | stop ch | unbind ch | violation ch | clrovr ch | ackdone ch =>
    cases hi
    have hch : d ≠ ch.toNat := by
      simpa (disch := decide) [-Nat.reduceAdd, BitVec.extractLsb'_append_eq_of_le,
        BitVec.extractLsb'_append_eq_of_add_le] using hd
    exact State.chan_setChan_ne s _ d _ hch

end

/-- Settles O25: of all that a command can do, only a violation changes both `ERR` and something else. -/
theorem failingCommandWritesOnlyErr : Obligations.FailingCommandWritesOnlyErr := by
  intro i w s t hi ht
  cases commandEffect_of_exec hi ht with
  | error | ackerr => exact .inr (.inl rfl)
  | violation ch _ ha => exact .inr (.inr ⟨ch, rfl, (Phase.active_iff _).1 ha⟩)
  | nop | cfgch | cfgdesc | actb | stopKept | stop | unbind | clrovr | ackdone => exact .inl rfl

/-- Settles O26: by the one channel a command can write. -/
theorem commandWritesOnlyItsChannel : Obligations.CommandWritesOnlyItsChannel := fun _ _ _ _ hi ht =>
  have heffect := commandEffect_of_exec hi ht
  ⟨heffect.sameMemory.numChannels, fun _ => heffect.chan_of_ne hi⟩

end Sys2Proof.Machine

/-! The mark of the run (60_exceptions.md R213, log entries 10, 24): no step takes it away, and no channel becomes FAULTED
without it. -/

namespace Sys2Proof.Machine

/-- From `s` to `t` the mark of the run is kept, and a channel that has become FAULTED has marked it. -/
structure FaultsMarked (s t : State) : Prop where
  kept    : s.runFaulted = true → t.runFaulted = true
  faulted : ∀ c, (t.chan c).phase = .faulted → (s.chan c).phase = .faulted ∨ t.runFaulted = true

section
variable {s t u : State}

/-- A state that is marked. -/
theorem FaultsMarked.of_marked (h : t.runFaulted = true) : FaultsMarked s t := ⟨fun _ => h, fun _ _ => .inr h⟩

/-- The same channels, and the mark kept. -/
theorem FaultsMarked.of_chans_eq (hc : t.chans = s.chans) (h : s.runFaulted = true → t.runFaulted = true) :
    FaultsMarked s t :=
  ⟨h, fun c hf => .inl (by simpa only [State.chan, hc] using hf)⟩

theorem FaultsMarked.refl (s : State) : FaultsMarked s s := .of_chans_eq rfl id

theorem FaultsMarked.trans (h : FaultsMarked s t) (h' : FaultsMarked t u) : FaultsMarked s u :=
  ⟨h'.kept ∘ h.kept, fun c hf => (h'.faulted c hf).elim (fun hf => (h.faulted c hf).imp_right h'.kept) .inr⟩

/-- A channel written with a phase that is not FAULTED, or was so before. -/
theorem FaultsMarked.setChan {c : Nat} {x : Channel} (hx : x.phase = .faulted → (s.chan c).phase = .faulted) :
    FaultsMarked s (s.setChan c x) := by
  refine ⟨id, fun d hf => .inl ?_⟩
  by_cases hd : d = c
  · subst hd
    by_cases hc : d < s.numChannels
    · rw [State.chan_setChan_same s d x hc] at hf
      exact hx hf
    · rw [State.chan_of_le _ _ (by simpa using hc)] at hf
      nomatch hf
  · rwa [State.chan_setChan_ne s c d x hd] at hf

theorem FaultsMarked.markFaultedIf (s : State) (b : Bool) : FaultsMarked s (s.markFaultedIf b) :=
  .of_chans_eq rfl fun h => by simp [h]

/-- A command faults a channel only by a violation, which marks the run (60_exceptions.md R210). -/
theorem CommandEffect.faultsMarked {i : Instr} (h : CommandEffect s i t) : FaultsMarked s t := by
  cases h with
  | error | nop | stopKept | ackerr => exact .of_chans_eq rfl id
  | actb =>
    refine .trans ?_ (.markFaultedIf _ _)
    exact .setChan nofun
  | stop => exact .setChan nofun
  | violation => exact .of_marked (Bool.or_true _)
  | cfgdesc _ slot => cases slot <;> exact .setChan id
  | cfgch | unbind | clrovr | ackdone => exact .setChan id

/-- An instruction faults a channel only by its command. -/
theorem InstrEffect.faultsMarked {i : Instr} (h : InstrEffect s i t) : FaultsMarked s t := by
  induction h with
  | command _ _ _ _ h | wrCmd _ _ h => exact h.faultsMarked
  | writable _ _ _ _ _ _ ih => exact ih
  | arm _ src dst _ _ h =>
    have hstaged : FaultsMarked s ((s.setArgSrc src).setArgDst dst) := .of_chans_eq rfl id
    exact hstaged.trans h.faultsMarked
  | accessFault => exact .of_marked (Bool.or_true _)
  | wrArgSrc | wrArgDst | readOnly | rd | initeng => exact .of_chans_eq rfl id

theorem FaultsMarked.of_hostAccessFault {off : BitVec 12} (h : hostAccessFault off s = .next t) : FaultsMarked s t := by
  cases h; exact .of_marked (Bool.or_true _)

/-- A unit faults its channel only by a bus error, which marks the run (60_exceptions.md R211). -/
theorem FaultsMarked.unitStep (s : State) (c : Nat) : FaultsMarked s (s.unitStep c) := by
  rcases s.unitStep_cases c with ⟨_, e⟩ | ⟨_, _, e⟩ | ⟨_, _, e⟩ <;> rw [e]
  · exact .of_marked (Bool.or_true _)
  · exact .of_marked (Bool.or_true _)
  · have hmoved : FaultsMarked s (s.moveByte (s.chan c).srcAddr (s.chan c).dstAddr) := by
      rw [s.moveByte_eq]; exact .of_chans_eq rfl id
    exact hmoved.trans (.setChan fun hf => absurd hf (Channel.afterUnit_phase_ne_faulted _))

/-- A trigger changes no phase (43_engine.md R161). -/
theorem FaultsMarked.mapChans_trigger (s : State) (code : BitVec 8) : FaultsMarked s (s.mapChans (Channel.trigger code)) := by
  refine ⟨id, fun c hf => .inl ?_⟩
  by_cases hc : c < s.numChannels
  · rwa [State.chan_mapChans s _ c hc, Channel.trigger_phase] at hf
  · rw [State.chan_of_le _ _ (by simpa using hc)] at hf
    nomatch hf

/-- No event faults a channel without marking the run. -/
theorem takeEvent_faultsMarked {e : Event} (h : takeEvent e s = .next t) : FaultsMarked s t := by
  cases e with
  | host a => exact (exec_next _ s t h).faultsMarked
  | hostStore a v =>
    rcases hostStoreStep_cases a v s with ⟨off, _, e⟩ | ⟨_, e⟩
    · exact .of_hostAccessFault (e.symm.trans h)
    · cases e.symm.trans h
      rw [s.writeByte_eq]; exact .of_chans_eq rfl id
  | hostLoad a =>
    rcases hostLoadStep_cases a s with ⟨off, _, e⟩ | ⟨_, e⟩
    · exact .of_hostAccessFault (e.symm.trans h)
    · cases e.symm.trans h
      rw [s.afterRead_eq]; exact .of_chans_eq rfl id
  | trigger code =>
    cases h
    rcases s.triggerStep_cases code with ⟨_, e⟩ | ⟨_, e⟩ <;> rw [e]
    · exact .refl s
    · exact .mapChans_trigger s code
  | grant c =>
    cases h
    rcases s.grantStep_cases c with ⟨_, e⟩ | ⟨_, e⟩ <;> rw [e]
    · exact .refl s
    · exact .unitStep s c
  | rearm c =>
    cases h
    rcases s.rearmStep_cases c with ⟨_, e⟩ | ⟨_, e⟩ <;> rw [e]
    · exact .refl s
    · exact .setChan nofun
  | reset =>
    cases h
    refine ⟨id, fun c hf => ?_⟩
    rw [State.chan_resetStep] at hf
    nomatch hf

/-- No step faults a channel without marking the run. -/
theorem step_faultsMarked (h : step s = .next t) : FaultsMarked s t := by
  have hpopped : FaultsMarked s s.popped := by
    rw [s.popped_eq]; exact .of_chans_eq rfl id
  exact hpopped.trans (takeEvent_faultsMarked (step_eq s ▸ h))

/-- An ACTB that arms a channel marks the run exactly if a staging register was never written (41_activation.md R124). -/
theorem CommandEffect.runFaulted_of_armed {ch : Chn} {nm1 : BitVec 16}
    (h : CommandEffect s (.actb ch false false 0 nm1) t) (hs : (s.chan ch.toNat).phase ≠ .armed)
    (ht : (t.chan ch.toNat).phase = .armed) :
    t.runFaulted = true ↔ s.runFaulted = true ∨ s.argSrcWritten = false ∨ s.argDstWritten = false := by
  cases h with
  | error => exact absurd ht hs
  | actb => simp

end

/-- Settles O41: by what a step, an ACTB and a write of a staging register do to the mark and to what the machine remembers. -/
theorem runIsMarked : Obligations.RunIsMarked := by
  refine ⟨fun s t ht => (step_faultsMarked ht).kept,
    fun s t c ht _ hs hf => ((step_faultsMarked ht).faulted c hf).resolve_left hs,
    fun s t ch nm1 ht => (commandEffect_of_exec rfl ht).runFaulted_of_armed, fun s t v => ⟨?_, ?_, ?_⟩⟩
  · rintro ⟨⟩; exact ⟨rfl, rfl⟩
  · rintro ⟨⟩; exact ⟨rfl, rfl⟩
  · rintro ⟨⟩; exact ⟨rfl, rfl⟩

end Sys2Proof.Machine

/-! The lockstep environment (60_exceptions.md R230): a channel served alone, through its trigger, its grant and its re-arm,
does one unit and is ready for the next trigger; then a byte time, which serves two channels one after the other. -/

namespace Sys2Proof.Machine

/-! ### The steps that serve one channel -/

/-- The trigger, the grant and the re-arm of channel `c`; one that is not enabled is passed over (log entry 7). -/
def State.serve (s : State) (code : BitVec 8) (c : Nat) : State := (s.triggerAndGrant code c).rearmStep c

/-- Every event keeps the parameters and the number of channels. -/
theorem StoreEffect.fixed {s t : State} {e : Event} (h : StoreEffect s t e) :
    t.params = s.params ∧ t.numChannels = s.numChannels := by
  cases h with
  | nothing _ h => exact ⟨h.params, h.numChannels⟩
  | unit _ _ _ h | hostStore _ _ h => exact h.fixed_of_writeByte

theorem State.triggerAndGrant_fixed (s : State) (code : BitVec 8) (c : Nat) :
    (s.triggerAndGrant code c).params = s.params ∧ (s.triggerAndGrant code c).numChannels = s.numChannels := by
  obtain ⟨hp, hn⟩ := (takeEvent_store (s := s) (e := .trigger code) rfl).fixed
  obtain ⟨hp', hn'⟩ := (takeEvent_store (s := s.triggerStep code) (e := .grant c) rfl).fixed
  exact ⟨hp'.trans hp, hn'.trans hn⟩

theorem State.serve_fixed (s : State) (code : BitVec 8) (c : Nat) :
    (s.serve code c).params = s.params ∧ (s.serve code c).numChannels = s.numChannels := by
  obtain ⟨hp, hn⟩ := s.triggerAndGrant_fixed code c
  obtain ⟨hp', hn'⟩ := (takeEvent_store (s := s.triggerAndGrant code c) (e := .rearm c) rfl).fixed
  exact ⟨hp'.trans hp, hn'.trans hn⟩

theorem Inv.serve {s : State} (h : Inv s) (code : BitVec 8) (c : Nat) : Inv (s.serve code c) :=
  ((h.triggerStep code).grantStep c).rearmStep c

/-! ### Serving reads no event to come -/

section
variable (s : State) (es : List Event) (code : BitVec 8) (c : Nat)

theorem State.triggerStep_setAgenda : (s.setAgenda es).triggerStep code = (s.triggerStep code).setAgenda es := by
  rw [State.triggerStep, State.triggerStep, apply_ite (State.setAgenda · es)]
  rfl

theorem State.unitStep_setAgenda : (s.setAgenda es).unitStep c = (s.unitStep c).setAgenda es := by
  simp only [State.unitStep, State.busError_eq, State.writeByte_eq, State.afterRead_eq, apply_ite (State.setAgenda · es)]
  rfl

theorem State.grantStep_setAgenda : (s.setAgenda es).grantStep c = (s.grantStep c).setAgenda es := by
  rw [State.grantStep, State.grantStep, apply_ite (State.setAgenda · es), State.unitStep_setAgenda]
  rfl

theorem State.rearmStep_setAgenda : (s.setAgenda es).rearmStep c = (s.rearmStep c).setAgenda es := by
  rw [State.rearmStep, State.rearmStep, apply_ite (State.setAgenda · es)]
  rfl

theorem State.serve_setAgenda : (s.setAgenda es).serve code c = (s.serve code c).setAgenda es := by
  simp only [State.serve, State.triggerAndGrant, State.triggerStep_setAgenda, State.grantStep_setAgenda,
    State.rearmStep_setAgenda]

/-- Three steps of the agenda serve a channel. -/
theorem core_run_serve (n : Nat) :
    Sys2Proof.core.run (n + 3) (s.setAgenda (.trigger code :: .grant c :: .rearm c :: es))
      = Sys2Proof.core.run n ((s.serve code c).setAgenda es) := by
  have htrigger : step (s.setAgenda (.trigger code :: .grant c :: .rearm c :: es))
      = .next ((s.triggerStep code).setAgenda (.grant c :: .rearm c :: es)) :=
    congrArg Host.Outcome.next (s.triggerStep_setAgenda _ code)
  have hgrant : step ((s.triggerStep code).setAgenda (.grant c :: .rearm c :: es))
      = .next ((s.triggerAndGrant code c).setAgenda (.rearm c :: es)) :=
    congrArg Host.Outcome.next ((s.triggerStep code).grantStep_setAgenda _ c)
  have hrearm : step ((s.triggerAndGrant code c).setAgenda (.rearm c :: es)) = .next ((s.serve code c).setAgenda es) :=
    congrArg Host.Outcome.next ((s.triggerAndGrant code c).rearmStep_setAgenda es c)
  rw [core_run_succ (n + 2) _ _ htrigger, core_run_succ (n + 1) _ _ hgrant, core_run_succ n _ _ hrearm]

/-- The steps of a byte time serve the transmit channel, then the receive channel. -/
theorem core_run_lockstepByteTime (r x : Nat) (h : s.agenda = lockstepByteTime r x ++ es) :
    Sys2Proof.core.run 6 s = .next (((s.serve 0x02 x).serve 0x01 r).setAgenda es) :=
  calc Sys2Proof.core.run 6 s
    _ = Sys2Proof.core.run 6 (s.setAgenda (lockstepByteTime r x ++ es)) := by rw [← h]; rfl
    _ = Sys2Proof.core.run 3 ((s.serve 0x02 x).setAgenda (.trigger 0x01 :: .grant r :: .rearm r :: es)) :=
      core_run_serve s _ 0x02 x 3
    _ = Sys2Proof.core.run 0 (((s.serve 0x02 x).serve 0x01 r).setAgenda es) := core_run_serve _ es 0x01 r 0

end

/-! ### What serving makes of the channels -/

/-- What an active channel that is served alone becomes: faulted, a unit further, or armed for the next burst. -/
def Channel.served (p : Params) (c : Channel) : Channel :=
  if readable p c.srcAddr = true ∧ writable p c.dstAddr = true then
    if c.remain = 1 then
      { c with remain := BitVec.ofNat 17 (c.nm1.toNat + 1), phase := .armed, done := c.done + 1 }
    else { c with remain := c.remain - 1, phase := .inProgress }
  else { c with phase := .faulted }

/-- Serving a channel changes its progress, its phase and its count of completions only. -/
theorem Channel.served_eq (p : Params) (c : Channel) :
    c.served p = { c with remain := (c.served p).remain, phase := (c.served p).phase, done := (c.served p).done } := by
  unfold Channel.served
  split
  · split <;> rfl
  · rfl

/-- The three things a channel served alone can become. -/
theorem Channel.served_cases (p : Params) (c : Channel) :
    let admitted := readable p c.srcAddr = true ∧ writable p c.dstAddr = true
    (¬ admitted → c.served p = { c with phase := .faulted })
    ∧ (admitted → c.remain ≠ 1 → c.served p = { c with remain := c.remain - 1, phase := .inProgress })
    ∧ (admitted → c.remain = 1 → c.served p = { c with
        remain := BitVec.ofNat 17 (c.nm1.toNat + 1), phase := .armed, done := c.done + 1 }) :=
  ⟨fun h => if_neg h, fun h h1 => (if_pos h).trans (if_neg h1), fun h h1 => (if_pos h).trans (if_pos h1)⟩

section
variable {s : State} {c : Nat}

/-- The only request pending is granted (43_engine.md R165). -/
theorem State.grantEnabled_of_only_request (hr : (s.chan c).req = true)
    (ho : ∀ d, d < s.numChannels → d ≠ c → (s.chan d).req = false) : s.grantEnabled c = true := by
  refine (s.grantEnabled_iff c).2 ⟨hr, or_iff_not_imp_left.2 fun hp d hd hreq => ?_⟩
  obtain rfl : d = c := by
    by_contra hne
    exact Bool.false_ne_true ((ho d hd hne).symm.trans hreq)
  simpa using hp

/-- What a unit makes of its channel, by whether MEM_MAP admits both its addresses (43_engine.md R166, R170). -/
theorem State.chan_unitStep (hc : c < s.numChannels) : (s.unitStep c).chan c =
    if readable s.params (s.chan c).srcAddr = true ∧ writable s.params (s.chan c).dstAddr = true then
      (s.chan c).afterUnit
    else { s.chan c with phase := .faulted, req := false } := by
  rcases s.unitStep_cases c with ⟨hr, e⟩ | ⟨_, hw, e⟩ | ⟨hr, hw, e⟩ <;> rw [e]
  · rw [if_neg (by simp [hr])]
    exact (State.busError_only hc).2
  · rw [if_neg (by simp [hw]), s.afterRead_eq]
    exact (State.busError_only hc).2
  · rw [if_pos ⟨hr, hw⟩]
    exact State.chan_setChan_same (s.moveByte _ _) c _ (by simpa using hc)

/-- What a re-arm makes of its channel, by whether it is enabled (43_engine.md R175). -/
theorem State.chan_rearmStep (hc : c < s.numChannels) : (s.rearmStep c).chan c =
    if (s.chan c).donePend = true ∧ (s.chan c).cb = true then (s.chan c).rearm else s.chan c := by
  rw [State.rearmStep, apply_ite (State.chan · c), State.chan_setChan_same s c _ hc]
  simp only [State.rearmEnabled_iff]

end

/-- An active channel, not waiting for anything, whose completions re-arm it; its trigger `code` serves it alone. -/
structure Lockstep (s : State) (c : Nat) (code : BitVec 8) : Prop extends ServedAlone s c code where
  active : (s.chan c).phase.active = true
  bound  : (s.chan c).boundTo code = true
  ie     : (s.chan c).ie = true
  cb     : (s.chan c).cb = true
  noReq  : (s.chan c).req = false
  noDone : (s.chan c).donePend = false

section
variable {s : State} {c : Nat} {code : BitVec 8} (h : Lockstep s c code)
include h

/-- The trigger is taken, and its grant enabled. -/
theorem Lockstep.triggerAndGrant_eq :
    s.triggerAndGrant code c = (s.setChan c { s.chan c with req := true }).unitStep c := by
  rw [State.triggerAndGrant, s.triggerStep_only c code h.code_ne h.admitted h.active h.noReq h.bound h.unbound]
  refine if_pos (State.grantEnabled_of_only_request ?_ fun d hd hne => ?_)
  · rw [State.chan_setChan_same s c _ h.lt]
  · rw [State.chan_setChan_ne s c d _ hne]
    exact h.idle d (by simpa using hd) hne

theorem Lockstep.chan_serve_ne {d : Nat} (hd : d ≠ c) : (s.serve code c).chan d = s.chan d := by
  have hrearm (u : State) : (u.rearmStep c).chan d = u.chan d := by
    rcases u.rearmStep_cases c with ⟨_, e⟩ | ⟨_, e⟩ <;> rw [e]
    exact State.chan_setChan_ne u c d _ hd
  rw [State.serve, hrearm, h.triggerAndGrant_eq, State.chan_unitStep_ne _ _ _ hd, State.chan_setChan_ne s c d _ hd]

/-- The trigger's unit faults the channel or moves it on. -/
theorem Lockstep.chan_triggerAndGrant : (s.triggerAndGrant code c).chan c =
    if readable s.params (s.chan c).srcAddr = true ∧ writable s.params (s.chan c).dstAddr = true then
      (s.chan c).afterUnit
    else { s.chan c with phase := .faulted, req := false } := by
  rw [h.triggerAndGrant_eq, State.chan_unitStep (by simpa using h.lt), State.chan_setChan_same s c _ h.lt]
  rfl

/-- The last unit is followed by the re-arm, any other leaves no completion pending. -/
theorem Lockstep.chan_serve : (s.serve code c).chan c = (s.chan c).served s.params := by
  have hn : c < (s.triggerAndGrant code c).numChannels := (s.triggerAndGrant_fixed code c).2 ▸ h.lt
  rw [State.serve, State.chan_rearmStep hn, h.chan_triggerAndGrant, Channel.served]
  obtain ⟨_, _, _, hie, hcb, hr, hd⟩ := h
  generalize s.chan c = ch at hie hcb hr hd ⊢
  split
  · by_cases h1 : ch.remain = 1
    · rw [Channel.afterUnit_last _ h1, if_pos h1, if_pos (by simp [hie, hcb]), Channel.rearm_eq]
      simp [hr, hd]
    · rw [Channel.afterUnit_more _ h1, if_neg h1, if_neg (by simp [hd]), ← hr]
  · rw [if_neg (by simp [hd]), ← hr]

/-- Serving a channel leaves every channel's request, loss counter and trigger binding. -/
theorem Lockstep.serve_keeps (d : Nat) :
    ((s.serve code c).chan d).req = (s.chan d).req ∧ ((s.serve code c).chan d).ovr = (s.chan d).ovr
    ∧ ((s.serve code c).chan d).cfg = (s.chan d).cfg ∧ ((s.serve code c).chan d).trig = (s.chan d).trig := by
  by_cases hd : d = c
  · rw [hd, h.chan_serve, Channel.served_eq]
    exact ⟨rfl, rfl, rfl, rfl⟩
  · rw [h.chan_serve_ne hd]
    exact ⟨rfl, rfl, rfl, rfl⟩

end

/-! ### A byte time -/

/-- A channel in the lockstep environment: by the invariant it is configured, its code is admitted, and an active channel
has no completion pending (10_state.md R26 items 2, 3). -/
theorem Inv.lockstep {s : State} {c : Nat} {code : BitVec 8} (hs : Inv s) (hc : c < s.numChannels) (hcode : code ≠ 0)
    (hidle : ∀ d, d < s.numChannels → (s.chan d).req = false)
    (ha : ((s.chan c).phase = .armed ∨ (s.chan c).phase = .inProgress) ∧ (s.chan c).ie = true ∧ (s.chan c).cb = true)
    (ht : (s.chan c).trig = code)
    (ho : ∀ d, d < s.numChannels → d ≠ c → (s.chan d).cfg = false ∨ (s.chan d).trig ≠ code) : Lockstep s c code := by
  obtain ⟨hact, hie, hcb⟩ := ha
  have hok := hs.channelOk c
  exact {
    lt := hc, code_ne := hcode, ie := hie, cb := hcb
    admitted := ht ▸ hok.trig_admitted
    idle := fun d hd _ => hidle d hd
    unbound := fun d hd hne => (Channel.boundTo_eq_false_iff _ _).2 (ho d hd hne)
    active := (Phase.active_iff _).2 hact
    bound := (Channel.boundTo_iff _ _).2 ⟨(hok.item3 hact).1, ht⟩
    noReq := hidle c hc
    noDone := Bool.eq_false_iff.2 fun hd => by simp [(hok.item2 hd).1] at hact }

/-- Settles O59: the transmit channel is served alone, and after it the receive channel is. -/
theorem lockstepByteTimeLosesNothing : Obligations.LockstepByteTimeLosesNothing := by
  intro s r x es hs hr hx hrx hagenda hidle hready htr htx hothers
  have hserveX : Lockstep s x 0x02 := by
    refine hs.lockstep hx (by decide) hidle (hready x (.inr rfl)) htx fun d hd hdx => ?_
    by_cases hdr : d = r
    · exact .inr (by rw [hdr, htr]; decide)
    · exact (hothers d hd hdr hdx).imp_right And.right
  obtain ⟨hparams, hnum⟩ := s.serve_fixed 0x02 x
  have hchanR : (s.serve 0x02 x).chan r = s.chan r := hserveX.chan_serve_ne hrx
  have hserveR : Lockstep (s.serve 0x02 x) r 0x01 := by
    refine (hs.serve 0x02 x).lockstep (hnum ▸ hr) (by decide) (fun d hd => ?_) (hchanR ▸ hready r (.inl rfl))
      (hchanR ▸ htr) fun d hd hdr => ?_
    · exact (hserveX.serve_keeps d).1.trans (hidle d (hnum ▸ hd))
    · obtain ⟨_, _, hcfg, htrig⟩ := hserveX.serve_keeps d
      rw [hcfg, htrig]
      by_cases hdx : d = x
      · exact .inr (by rw [hdx, htx]; decide)
      · exact (hothers d (hnum ▸ hd) hdr hdx).imp_right And.left
  refine ⟨_, core_run_lockstepByteTime s es r x hagenda, rfl, ?_⟩
  simp only [State.chan_setAgenda]
  refine ⟨fun d hd => ?_, fun d hdr hdx => ?_, fun d hd => ?_⟩
  · obtain ⟨hreqX, hovrX, _⟩ := hserveX.serve_keeps d
    obtain ⟨hreqR, hovrR, _⟩ := hserveR.serve_keeps d
    exact ⟨hovrR.trans hovrX, hreqR.trans (hreqX.trans (hidle d hd))⟩
  · exact (hserveR.chan_serve_ne hdr).trans (hserveX.chan_serve_ne hdx)
  · have hserved : ((s.serve 0x02 x).serve 0x01 r).chan d = (s.chan d).served s.params := by
      rcases hd with rfl | rfl
      · rw [hserveR.chan_serve, hchanR, hparams]
      · rw [hserveR.chan_serve_ne hrx.symm, hserveX.chan_serve]
    rw [hserved]
    exact Channel.served_cases s.params (s.chan d)

end Sys2Proof.Machine

/-! Reset from any state (70_reset_and_hazards.md R240 to R242): what it clears, and that nothing of the engine's own then
happens. -/

namespace Sys2Proof.Machine

/-- With no completion pending on any channel the interrupt line is low (43_engine.md R180). -/
theorem State.irq_eq_false {s : State} (h : ∀ c, c < s.numChannels → (s.chan c).donePend = false) : s.irq = false :=
  Bool.eq_false_iff.2 fun hirq => by
    obtain ⟨c, hc, hd, _⟩ := s.irq_iff.1 hirq
    exact Bool.false_ne_true ((h c hc).symm.trans hd)

/-- A grant to a channel with no request is passed over (43_engine.md R165; log entry 7). -/
theorem State.grantStep_of_no_req {s : State} {c : Nat} (h : (s.chan c).req = false) : s.grantStep c = s :=
  if_neg fun hg => Bool.false_ne_true (h.symm.trans (State.req_of_grantEnabled hg))

/-- A re-arm of a channel with no completion pending is passed over (43_engine.md R175; log entry 7). -/
theorem State.rearmStep_of_no_donePend {s : State} {c : Nat} (h : (s.chan c).donePend = false) : s.rearmStep c = s :=
  if_neg fun hg => Bool.false_ne_true (h.symm.trans (State.donePend_of_rearmEnabled hg))

/-- Settles O45: every channel is at reset on both sides, so no completion is pending and the interrupt line is low. -/
theorem resetClearsEngine : Obligations.ResetClearsEngine := by
  intro s
  have hirq : s.resetStep.irq = false := State.irq_eq_false fun c _ => by rw [s.chan_resetStep]; rfl
  have hchan : ∀ c, s.resetStep.chan c = (State.initial s.params s.numChannels).chan c := fun c => by
    rw [s.chan_resetStep, State.chan_initial]
  exact ⟨s.resetStep, rfl, s.numChannels_resetStep, rfl, hchan, rfl, hirq, rfl, rfl, rfl⟩

/-- Settles O46: after reset no channel has a request, a completion pending, or a configuration a trigger could be bound
to. -/
theorem resetEngineIsIdle : Obligations.ResetEngineIsIdle := by
  intro s t c code ht
  cases ht
  have hreset : ∀ d, s.resetStep.chan d = Channel.reset := s.chan_resetStep
  refine ⟨congrArg Host.Outcome.next (State.grantStep_of_no_req ?_),
    congrArg Host.Outcome.next (State.rearmStep_of_no_donePend ?_),
    unboundTriggerChangesNothing _ code (.inr (.inr fun d _ => .inl ?_))⟩ <;>
  · rw [hreset]; rfl

end Sys2Proof.Machine
